-- ==== Sys2Proof/Word.lean ====
section
/-! DEFINITION. The bit vectors of the machine: the 13-bit word (a cell, IR, DR, AC), the 7-bit address (PC, AR, SP,
BP, an immediate) and the 6-bit opcode field (spec/00_scope.md R5, spec/10_state.md R21). -/

namespace Sys2Proof

/-- A 13-bit word: `WORD_WIDTH = ADDRESS_WIDTH + CONTROL_BITS = 13` (R5). -/
abbrev Word := BitVec 13

/-- A 7-bit address, jump target or offset, unsigned 0..127 (R5, R82). -/
abbrev Addr := BitVec 7

/-- The 6-bit opcode field of a word, 0..63 (R80). -/
abbrev Opcode := BitVec 6

end Sys2Proof
end

