-- ==== Sys2Proof/Config.lean ====
section
/-! DEFINITION. What an implementation fixes (spec/00_scope.md R5, R6) and the free values: points where the spec
says "any value between the two candidates" (spec/93_implementation_defined.md U2, U3) or names no value. A free
value is an opaque constant, so no proof can see which candidate it picks. -/

namespace Sys2Proof.Config

/-- `ADDRESS_WIDTH` (R5). -/
def addressWidth : Nat := 7

/-- `CONTROL_BITS` (R5). -/
def controlBits : Nat := 6

/-- `WORD_WIDTH` (R5). -/
def wordWidth : Nat := addressWidth + controlBits

/-- `MAX_ADDRESS = 2^ADDRESS_WIDTH - 1 = 127` (R5). -/
def maxAddress : Nat := 127

/-- `MEM_CELLS = 2^ADDRESS_WIDTH = 128` (R5, R60). -/
def memCells : Nat := 128

/-- `WORD_MASK = 2^13 - 1 = 8191`, the largest value of a cell (R5, R60). -/
def wordMask : Nat := 8191

/-- The fill value: what a cell that nothing has written reads as (R60, R61). -/
def memFill : Word := 0

/-- `RESET_SP`, DESIGN CHOICE (log 3): the spec leaves it OPEN and recommends 127 (R291, D3). -/
def resetSp : Addr := 127

/-- `RESET_BP`, DESIGN CHOICE (log 3): the spec leaves it OPEN and recommends 127 (R291, D3). -/
def resetBp : Addr := 127

/-- FREE VALUE (log 8, U2): at the n-th draw, whether a fault inside a relative instruction leaves AR and DR where the
handler had moved them (true) or at the step-3 values (false). -/
opaque faultScratchMoved : Nat → Bool

/-- FREE VALUE (log 9, U3): at the n-th draw, whether `POPM` leaves IR as fetched (true) or overwrites it with the
bare address (false). -/
opaque popmKeepsIr : Nat → Bool

/-- FREE VALUE (log 13): which of two different source lines an assembler error names, where the spec does not say. -/
opaque errorLineIsFirst : Nat → Nat → Bool

end Sys2Proof.Config
end

