-- ==== Sys2Proof/Syntax.lean ====
section
/-! DEFINITION. The instructions: one constructor per row of spec/opcode_table.json (spec/30_encoding.md R84, R86).
Every constructor keeps the word's 7-bit immediate: `adr` an address or jump target, `x` an offset from SP or BP,
`imm` an immediate the handler ignores but the operand fetch of cycle step 3 still uses (R82 (d), R103, U10). -/

namespace Sys2Proof

/-- One instruction word, decoded. The two DEF rows are data words, executed as a no-operation (R86, R105). -/
inductive Instr where
  /-- LDA, opcode 0 (R120). -/
  | lda (adr : Addr)
  /-- STA, opcode 1 (R121). -/
  | sta (adr : Addr)
  /-- ADD, opcode 2 (R122). -/
  | add (adr : Addr)
  /-- SUB, opcode 3 (R123). -/
  | sub (adr : Addr)
  /-- JMP, opcode 4 (R130). -/
  | jmp (adr : Addr)
  /-- JMS, opcode 5 (R131). -/
  | jms (adr : Addr)
  /-- JSR, opcode 6 (R140). -/
  | jsr (adr : Addr)
  /-- RTN, opcode 7 (R141). -/
  | rtn (imm : Addr)
  /-- JPL, opcode 8 (R132). -/
  | jpl (adr : Addr)
  /-- JZE, opcode 9 (R133). -/
  | jze (adr : Addr)
  /-- OUT, opcode 10 (R160). -/
  | out (adr : Addr)
  /-- END, opcode 11 (R162). -/
  | endd (imm : Addr)
  /-- PSH, opcode 12 (R142). -/
  | psh (imm : Addr)
  /-- POP, opcode 13 (R143). -/
  | pop (imm : Addr)
  /-- PSHM, opcode 14 (R144). -/
  | pshm (adr : Addr)
  /-- POPM, opcode 15 (R145). -/
  | popm (adr : Addr)
  /-- NOP, opcode 16 (R150). -/
  | nop (imm : Addr)
  /-- NEG, opcode 17 (R151). -/
  | neg (imm : Addr)
  /-- INC, opcode 18 (R152). -/
  | inc (imm : Addr)
  /-- DEC, opcode 19 (R153). -/
  | dec (imm : Addr)
  /-- JNZ, opcode 20 (R136). -/
  | jnz (adr : Addr)
  /-- LDAS, opcode 21 (R171). -/
  | ldas (x : Addr)
  /-- STAS, opcode 22 (R172). -/
  | stas (x : Addr)
  /-- ADDS, opcode 23 (R173). -/
  | adds (x : Addr)
  /-- SUBS, opcode 24 (R174). -/
  | subs (x : Addr)
  /-- JNM, opcode 25 (R134). -/
  | jnm (adr : Addr)
  /-- JNP, opcode 26 (R135). -/
  | jnp (adr : Addr)
  /-- OUTS, opcode 27 (R200). -/
  | outs (x : Addr)
  /-- INM, opcode 28 (R161). -/
  | inm (adr : Addr)
  /-- INS, opcode 29 (R202). -/
  | ins (x : Addr)
  /-- LDAB, opcode 30 (R175). -/
  | ldab (x : Addr)
  /-- STAB, opcode 31 (R176). -/
  | stab (x : Addr)
  /-- ADDB, opcode 32 (R177). -/
  | addb (x : Addr)
  /-- SUBB, opcode 33 (R178). -/
  | subb (x : Addr)
  /-- OUTB, opcode 34 (R201). -/
  | outb (x : Addr)
  /-- INB, opcode 35 (R203). -/
  | inb (x : Addr)
  /-- POPB, opcode 36 (R193). -/
  | popb (imm : Addr)
  /-- PSHB, opcode 37 (R192). -/
  | pshb (imm : Addr)
  /-- BPSP, opcode 38 (R191). -/
  | bpsp (imm : Addr)
  /-- SPBP, opcode 39 (R190). -/
  | spbp (imm : Addr)
  /-- DEF, opcodes 40 to 47, row pattern 101xxx (R86, R105). -/
  | defLow (opc : Opcode) (imm : Addr)
  /-- DEF, opcodes 48 to 63, row pattern 11xxxx (R86, R105). -/
  | defHigh (opc : Opcode) (imm : Addr)
  deriving DecidableEq, Repr

end Sys2Proof
end

