-- ==== Sys2Proof/WellFormed.lean ====
section
/-! DEFINITION. Which terms of Instr are instruction words. Each field of a table instruction admits every value of
its width (spec/30_encoding.md R85); a DEF term must carry an opcode of its own row (R86). -/

namespace Sys2Proof

/-- `i` is the reading of some 13-bit word: the opcode a DEF term carries is one of its row's. -/
def Instr.wellFormed : Instr → Bool
  | .lda _ => true
  | .sta _ => true
  | .add _ => true
  | .sub _ => true
  | .jmp _ => true
  | .jms _ => true
  | .jsr _ => true
  | .rtn _ => true
  | .jpl _ => true
  | .jze _ => true
  | .out _ => true
  | .endd _ => true
  | .psh _ => true
  | .pop _ => true
  | .pshm _ => true
  | .popm _ => true
  | .nop _ => true
  | .neg _ => true
  | .inc _ => true
  | .dec _ => true
  | .jnz _ => true
  | .ldas _ => true
  | .stas _ => true
  | .adds _ => true
  | .subs _ => true
  | .jnm _ => true
  | .jnp _ => true
  | .outs _ => true
  | .inm _ => true
  | .ins _ => true
  | .ldab _ => true
  | .stab _ => true
  | .addb _ => true
  | .subb _ => true
  | .outb _ => true
  | .inb _ => true
  | .popb _ => true
  | .pshb _ => true
  | .bpsp _ => true
  | .spbp _ => true
  | .defLow opc _ => decide (40 ≤ opc.toNat) && decide (opc.toNat ≤ 47)
  | .defHigh opc _ => decide (48 ≤ opc.toNat)

end Sys2Proof
end

