-- ==== Sys2Proof/Decode.lean ====
section
/-! DEFINITION. The decoder, total on every 13-bit word (spec/30_encoding.md R80 to R89), the encoder written from the
same opcode table (R84), the names of a word (R89), and decodeTableWord. -/

namespace Sys2Proof

/-- `word[12:7]`, the opcode field (R80, R81). -/
def opcodeField (w : Word) : Opcode := w.extractLsb' 7 6

/-- `word[6:0]`, the immediate field (R80, R81). -/
def immField (w : Word) : Addr := w.extractLsb' 0 7

/-- The instruction of an opcode and an immediate: the opcode alone selects it (R84, R85); 40..63 match no table
entry and are DEF, never a fault (R86). -/
def decodeFields (opc : Opcode) (imm : Addr) : Instr :=
  match opc.toNat with
  | 0 => .lda imm
  | 1 => .sta imm
  | 2 => .add imm
  | 3 => .sub imm
  | 4 => .jmp imm
  | 5 => .jms imm
  | 6 => .jsr imm
  | 7 => .rtn imm
  | 8 => .jpl imm
  | 9 => .jze imm
  | 10 => .out imm
  | 11 => .endd imm
  | 12 => .psh imm
  | 13 => .pop imm
  | 14 => .pshm imm
  | 15 => .popm imm
  | 16 => .nop imm
  | 17 => .neg imm
  | 18 => .inc imm
  | 19 => .dec imm
  | 20 => .jnz imm
  | 21 => .ldas imm
  | 22 => .stas imm
  | 23 => .adds imm
  | 24 => .subs imm
  | 25 => .jnm imm
  | 26 => .jnp imm
  | 27 => .outs imm
  | 28 => .inm imm
  | 29 => .ins imm
  | 30 => .ldab imm
  | 31 => .stab imm
  | 32 => .addb imm
  | 33 => .subb imm
  | 34 => .outb imm
  | 35 => .inb imm
  | 36 => .popb imm
  | 37 => .pshb imm
  | 38 => .bpsp imm
  | 39 => .spbp imm
  | _ => if opc.toNat < 48 then .defLow opc imm else .defHigh opc imm

/-- Decode a word (R81, R85): every one of the 8192 words is an instruction or a data word (R88). -/
def decode (w : Word) : Instr := decodeFields (opcodeField w) (immField w)

/-- Why a number is no instruction word. -/
inductive DecodeError where
  /-- The number does not fit a 13-bit cell (R60, R76): no cell can hold it. Safe. -/
  | notACellValue (n : Nat)
  deriving DecidableEq, Repr

/-- Decode a number that may or may not fit a cell: a value above 8191 is rejected by name (R60, R76). -/
def decodeNumber (n : Nat) : Except DecodeError Instr :=
  if n ≤ Config.wordMask then .ok (decode (BitVec.ofNat 13 n)) else .error (.notACellValue n)

/-- The opcode of an instruction (R84). -/
def Instr.opcode : Instr → Opcode
  | .lda _ => 0
  | .sta _ => 1
  | .add _ => 2
  | .sub _ => 3
  | .jmp _ => 4
  | .jms _ => 5
  | .jsr _ => 6
  | .rtn _ => 7
  | .jpl _ => 8
  | .jze _ => 9
  | .out _ => 10
  | .endd _ => 11
  | .psh _ => 12
  | .pop _ => 13
  | .pshm _ => 14
  | .popm _ => 15
  | .nop _ => 16
  | .neg _ => 17
  | .inc _ => 18
  | .dec _ => 19
  | .jnz _ => 20
  | .ldas _ => 21
  | .stas _ => 22
  | .adds _ => 23
  | .subs _ => 24
  | .jnm _ => 25
  | .jnp _ => 26
  | .outs _ => 27
  | .inm _ => 28
  | .ins _ => 29
  | .ldab _ => 30
  | .stab _ => 31
  | .addb _ => 32
  | .subb _ => 33
  | .outb _ => 34
  | .inb _ => 35
  | .popb _ => 36
  | .pshb _ => 37
  | .bpsp _ => 38
  | .spbp _ => 39
  | .defLow opc _ => opc
  | .defHigh opc _ => opc

/-- The immediate field of an instruction (R82). -/
def Instr.imm : Instr → Addr
  | .lda adr => adr
  | .sta adr => adr
  | .add adr => adr
  | .sub adr => adr
  | .jmp adr => adr
  | .jms adr => adr
  | .jsr adr => adr
  | .rtn imm => imm
  | .jpl adr => adr
  | .jze adr => adr
  | .out adr => adr
  | .endd imm => imm
  | .psh imm => imm
  | .pop imm => imm
  | .pshm adr => adr
  | .popm adr => adr
  | .nop imm => imm
  | .neg imm => imm
  | .inc imm => imm
  | .dec imm => imm
  | .jnz adr => adr
  | .ldas x => x
  | .stas x => x
  | .adds x => x
  | .subs x => x
  | .jnm adr => adr
  | .jnp adr => adr
  | .outs x => x
  | .inm adr => adr
  | .ins x => x
  | .ldab x => x
  | .stab x => x
  | .addb x => x
  | .subb x => x
  | .outb x => x
  | .inb x => x
  | .popb imm => imm
  | .pshb imm => imm
  | .bpsp imm => imm
  | .spbp imm => imm
  | .defLow _ imm => imm
  | .defHigh _ imm => imm

/-- The word of an instruction: opcode above immediate, `opc * 128 + imm` (R80). -/
def encode (i : Instr) : Word := i.opcode ++ i.imm

/-- The 40 table mnemonics in code order (R84): the entry at place c is the mnemonic of opcode c. -/
def tableMnemonics : List String :=
  ["LDA", "STA", "ADD", "SUB", "JMP", "JMS", "JSR", "RTN", "JPL", "JZE"] ++
  ["OUT", "END", "PSH", "POP", "PSHM", "POPM", "NOP", "NEG", "INC", "DEC"] ++
  ["JNZ", "LDAS", "STAS", "ADDS", "SUBS", "JNM", "JNP", "OUTS", "INM", "INS"] ++
  ["LDAB", "STAB", "ADDB", "SUBB", "OUTB", "INB", "POPB", "PSHB", "BPSP", "SPBP"]

/-- The opcodes whose mnemonic takes no argument: RTN, PSH, POP, SPBP, BPSP, POPB, PSHB, NOP, NEG, INC, DEC, END (R83). -/
def noArgumentOpcodes : List Nat := [7, 12, 13, 39, 38, 36, 37, 16, 17, 18, 19, 11]

/-- `command_name(word)`: the table mnemonic of the word's opcode, else `DEF` (R89). -/
def commandName (w : Word) : String := tableMnemonics.getD (opcodeField w).toNat "DEF"

/-- What the decoder reads from an instruction whose bits, numbered as the opcode table numbers them, are `w`: the one
word is `w` below its `nbits`, every bit above 0. A number no cell can hold is rejected. -/
def decodeTableWord (nbits w : Nat) : Option Instr :=
  match decodeNumber (w % 2 ^ nbits) with
  | .ok i => some i
  | .error _ => none

end Sys2Proof
end

