-- ==== Sys2Proof/Machine/State.lean ====
section
/-! DEFINITION. The machine state (spec/10_state.md R20 to R50) as plain data, the ways a cycle stops, and the state
right after reset. -/

namespace Sys2Proof.Machine

/-- The memory as (address, word) pairs in one canonical form: addresses strictly rising and below 128, no entry equal
to the fill value an unlisted cell reads as (spec/20_memory.md R60, R61; the form is `Memory.wf`). -/
abbrev Memory := List (Nat × Word)

/-- A set of addresses as a strictly rising list (`AddrSet.wf`), so that equal sets are equal data. -/
abbrev AddrSet := List Addr

/-- How the last cycle ended. The model's own (log 7): it carries the `Breakpoint` signal of R108 and what the machine
status of R37 is read off. -/
inductive CycleEnd where
  /-- No cycle since the last reset or load. -/
  | notRun
  /-- The cycle completed, or the host has started the machine since it ended. -/
  | completed
  /-- The cycle completed and its handler cleared the running flag: END, or INM without input (R161, R162). -/
  | halted
  /-- The cycle completed and signalled `Breakpoint` (R108, R264). -/
  | breakpoint
  /-- The cycle ended in a fault (R266). -/
  | faulted
  deriving DecidableEq, Repr

/-- Everything the spec gives the machine (R20), the two sides of the Interface (R275), and two fields of the model. -/
structure State where
  /-- Instruction Register, 13 bits (R22). -/
  ir : Word
  /-- Data Register, 13 bits (R23). -/
  dr : Word
  /-- Program Counter, 7 bits (R24). -/
  pc : Addr
  /-- Accumulator, 13 bits (R25). -/
  ac : Word
  /-- Address Register, 7 bits (R26). -/
  ar : Addr
  /-- Stack Pointer, 7 bits (R27). -/
  sp : Addr
  /-- Base Pointer, 7 bits (R27). -/
  bp : Addr
  /-- The 128 cells (R60). -/
  mem : Memory
  /-- The running flag (R36). -/
  running : Bool
  /-- The return-address set (R42). -/
  raSet : AddrSet
  /-- The host's breakpoint set (R38). -/
  breakpoints : AddrSet
  /-- The answers the input port has yet to give, next first; empty answers `none` (R275, log 6). -/
  input : List Int
  /-- The values shown at the output port so far, oldest first (R275, log 6). -/
  output : List Int
  /-- The model's own (log 7). -/
  lastEnd : CycleEnd
  /-- The model's own (log 8): how many free values have been drawn. -/
  draws : Nat
  deriving DecidableEq, Repr

/-- The three kinds of fault a cycle can raise (spec/60_exceptions.md R260); no codes, no messages (R268). -/
inductive FaultKind where
  /-- An exact signed result outside the accumulator's range (R261). -/
  | overflow
  /-- `base + x > 127` (R262). -/
  | invalidAddress
  /-- No input value for INS or INB (R263). -/
  | noInputValue
  deriving DecidableEq, Repr

/-- A cycle that faulted. The machine has no handler to enter (R267, R271): the fault is handed to the host with the
state the cycle left (R265), and ends the run (R267, D6). -/
inductive Fault where
  /-- `Overflow`, raised by ADD, SUB, INC, DEC, ADDS, SUBS, ADDB, SUBB (R261). Safe: the spec's own fault. -/
  | overflow (after : State)
  /-- `InvalidAddress`, raised by the twelve relative instructions (R262). Safe: the spec's own fault. -/
  | invalidAddress (after : State)
  /-- `NoInputValue`, raised by INS and INB (R263). Safe: the spec's own fault. -/
  | noInputValue (after : State)
  deriving DecidableEq, Repr

/-- Why an instruction is refused. Every instruction has its meaning, so nothing raises it. -/
inductive Refusal where
  /-- The instruction has no meaning in the model; no arm of `exec` answers it. Safe. -/
  | notModelled (mnemonic : String)
  deriving DecidableEq, Repr

/-- The state after reset for given `RESET_SP` and `RESET_BP`, which the spec leaves to the model's arguments (R50, R290,
R291, D3): memory zero, IR, DR, AC, AR, PC zero, not running, return-address set empty. -/
def State.resetWith (sp bp : Addr) : State where
  ir := 0
  dr := 0
  pc := 0
  ac := 0
  ar := 0
  sp := sp
  bp := bp
  mem := []
  running := false
  raSet := []
  breakpoints := []
  input := []
  output := []
  lastEnd := .notRun
  draws := 0

/-- The machine right after reset, "the state at machine construction" (R290), with the recommended stack and base
pointer (log 3). -/
def State.reset : State := State.resetWith Config.resetSp Config.resetBp

end Sys2Proof.Machine
end

