-- ==== Sys2Proof/Machine/Alu.lean ====
section
/-! DEFINITION. The register primitives (spec/10_state.md R28 to R34), for a register of any width: "the ALU is nothing
more than them". A register's value is a bit vector, so every result is masked to its width (R28). -/

namespace Sys2Proof.Machine

/-- `set(v)`: `v mod 2^bits` for any mathematical integer v (R28, `mask_w` of R8). -/
def Reg.set (w : Nat) (v : Int) : BitVec w := BitVec.ofInt w v

/-- `signed_value`: the two's-complement reading (R29, `signed_w` of R8). -/
def Reg.signedValue {w : Nat} (r : BitVec w) : Int := r.toInt

/-- `leftmost`: the sign bit `value[bits-1]` (R29). -/
def Reg.leftmost {w : Nat} (r : BitVec w) : Bool := r.getLsbD (w - 1)

/-- `rightmost`: `value[0]` (R29). -/
def Reg.rightmost {w : Nat} (r : BitVec w) : Bool := r.getLsbD 0

/-- `max_signed = 2^(bits-1) - 1` (R29). -/
def Reg.maxSigned (w : Nat) : Int := 2 ^ (w - 1) - 1

/-- `min_signed = -2^(bits-1)` (R29). -/
def Reg.minSigned (w : Nat) : Int := -(2 ^ (w - 1))

/-- `to(other)`: the raw value into a register of another width, truncated or zero-extended, never sign-extended (R30). -/
def Reg.to {w : Nat} (v : Nat) (r : BitVec w) : BitVec v := r.setWidth v

/-- `inc`: plus 1 with wraparound, no trap (R31). -/
def Reg.inc {w : Nat} (r : BitVec w) : BitVec w := r + 1

/-- `dec`: minus 1 with wraparound, no trap (R31). -/
def Reg.dec {w : Nat} (r : BitVec w) : BitVec w := r - 1

/-- `neg()`: two's-complement negation, no overflow check (R32). -/
def Reg.neg {w : Nat} (r : BitVec w) : BitVec w := -r

/-- `will_overflow(c)`: the exact candidate falls outside `[min_signed, max_signed]` of the width (R33). -/
def Reg.willOverflow (w : Nat) (c : Int) : Bool := decide (c < Reg.minSigned w) || decide (Reg.maxSigned w < c)

/-- The operators of R34; no instruction uses `and`, `or`, `xor` or a shift. -/
inductive RegOp where
  | plus
  | minus
  | and
  | or
  | xor
  | shiftLeft
  | shiftRight
  deriving DecidableEq, Repr

/-- The operators "produce a new register of the same name/width holding the masked result", with an integer operand k
(R34). A bitwise operator takes k masked to the width; a shift by k is `value * 2^k` masked, or `floor(value / 2^k)`
(the logical reading, D22), for a count k that is not negative (a negative count shifts by nothing: log 17). -/
def Reg.apply {w : Nat} (op : RegOp) (r : BitVec w) (k : Int) : BitVec w :=
  match op with
  | .plus => Reg.set w (r.toNat + k)
  | .minus => Reg.set w (r.toNat - k)
  | .and => r &&& Reg.set w k
  | .or => r ||| Reg.set w k
  | .xor => r ^^^ Reg.set w k
  | .shiftLeft => Reg.set w (r.toNat * 2 ^ k.toNat)
  | .shiftRight => Reg.set w (r.toNat / 2 ^ k.toNat : Nat)

end Sys2Proof.Machine
end

