-- ==== Sys2Proof/Machine/Ops.lean ====
section
/-! DEFINITION. The named operations over memory, address sets and the state: every read and write of a register or
cell goes through one of them. Raising a fault, and fetching an instruction, are here too. -/

namespace Sys2Proof.Machine

/-- What one step answers. -/
abbrev Result := Host.Outcome State Fault Refusal

/-! ### Memory (spec/20_memory.md) -/

/-- `MemRead(a, 1)`: the cell at `a`; a cell the list does not name reads as the fill value (R60, R65). -/
def Memory.read : Memory → Nat → Word
  | [], _ => Config.memFill
  | (k, v) :: rest, a => if k = a then v else Memory.read rest a

/-- Take every entry for cell `a` out. -/
def Memory.dropCell : Memory → Nat → Memory
  | [], _ => []
  | (k, v) :: rest, a => if k = a then Memory.dropCell rest a else (k, v) :: Memory.dropCell rest a

/-- Put an entry in front of the first one with a larger address. -/
def Memory.putCell : Memory → Nat → Word → Memory
  | [], a, v => [(a, v)]
  | (k, x) :: rest, a, v => if a < k then (a, v) :: (k, x) :: rest else (k, x) :: Memory.putCell rest a v

/-- `MemWrite(a, 1, v)`, keeping the canonical form: writing the fill value takes the entry out (R65). -/
def Memory.write (m : Memory) (a : Nat) (v : Word) : Memory :=
  if v = Config.memFill then Memory.dropCell m a else Memory.putCell (Memory.dropCell m a) a v

/-- `clear()`: every cell to the fill value (R61). -/
def Memory.clear (_ : Memory) : Memory := []

/-- All addresses of the list are above the bound and rise strictly, below 128, and no entry is the fill value. -/
def Memory.wfAbove : Option Nat → Memory → Bool
  | _, [] => true
  | low, (k, v) :: rest =>
    (match low with
      | none => true
      | some l => decide (l < k)) && decide (k < Config.memCells) && decide (v ≠ Config.memFill) &&
      Memory.wfAbove (some k) rest

/-- The canonical form of a memory. -/
def Memory.wf (m : Memory) : Bool := Memory.wfAbove none m

/-- An index a memory access admits: in `[0, 128)`; any other fails with `InvalidAddress` (R62, C5). -/
def addressInRange (a : Int) : Bool := decide (0 ≤ a) && decide (a < Config.memCells)

/-! ### Sets of addresses -/

/-- Membership. -/
def AddrSet.has : AddrSet → Addr → Bool
  | [], _ => false
  | b :: rest, a => decide (b = a) || AddrSet.has rest a

/-- Add an address, keeping the list rising and without repeats. -/
def AddrSet.add : AddrSet → Addr → AddrSet
  | [], a => [a]
  | b :: rest, a =>
    if a = b then b :: rest
    else if a.toNat < b.toNat then a :: b :: rest else b :: AddrSet.add rest a

/-- Take an address out; nothing happens if it is absent (R42). -/
def AddrSet.remove : AddrSet → Addr → AddrSet
  | [], _ => []
  | b :: rest, a => if b = a then AddrSet.remove rest a else b :: AddrSet.remove rest a

/-- The addresses rise strictly and are above the bound. -/
def AddrSet.wfAbove : Option Nat → AddrSet → Bool
  | _, [] => true
  | low, b :: rest =>
    (match low with
      | none => true
      | some l => decide (l < b.toNat)) && AddrSet.wfAbove (some b.toNat) rest

/-- The canonical form of a set of addresses. -/
def AddrSet.wf (a : AddrSet) : Bool := AddrSet.wfAbove none a

/-! ### One update per piece of state -/

/-- Write IR. -/
def State.setIr (s : State) (v : Word) : State := { s with ir := v }

/-- Write DR. -/
def State.setDr (s : State) (v : Word) : State := { s with dr := v }

/-- Write PC. -/
def State.setPc (s : State) (v : Addr) : State := { s with pc := v }

/-- Write AC. -/
def State.setAc (s : State) (v : Word) : State := { s with ac := v }

/-- Write AR. -/
def State.setAr (s : State) (v : Addr) : State := { s with ar := v }

/-- Write SP. -/
def State.setSp (s : State) (v : Addr) : State := { s with sp := v }

/-- Write BP. -/
def State.setBp (s : State) (v : Addr) : State := { s with bp := v }

/-- Write the memory. -/
def State.setMem (s : State) (v : Memory) : State := { s with mem := v }

/-- Write the running flag. -/
def State.setRunning (s : State) (v : Bool) : State := { s with running := v }

/-- Write the return-address set. -/
def State.setRaSet (s : State) (v : AddrSet) : State := { s with raSet := v }

/-- Write the breakpoint set. -/
def State.setBreakpoints (s : State) (v : AddrSet) : State := { s with breakpoints := v }

/-- Write the input still to come. -/
def State.setInput (s : State) (v : List Int) : State := { s with input := v }

/-- Write the output shown. -/
def State.setOutput (s : State) (v : List Int) : State := { s with output := v }

/-- Write how the last cycle ended. -/
def State.setLastEnd (s : State) (v : CycleEnd) : State := { s with lastEnd := v }

/-- Write the count of free values drawn. -/
def State.setDraws (s : State) (v : Nat) : State := { s with draws := v }

/-! ### Micro-operations -/

/-- `DR <- MemRead(AR, 1)` (R65). -/
def State.memRead (s : State) : State := s.setDr (Memory.read s.mem s.ar.toNat)

/-- `MemWrite(AR, 1, DR)` (R65). -/
def State.memWrite (s : State) : State := s.setMem (Memory.write s.mem s.ar.toNat s.dr)

/-- Cycle step 1: `AR <- PC; DR <- MemRead(AR, 1); IR <- DR; PC <- mask_7(PC + 1)` (R101). A new cycle forgets how the
last one ended (log 7). -/
def State.fetch (s : State) : State :=
  let a := (s.setLastEnd .completed).setAr s.pc
  let d := a.memRead
  let i := d.setIr d.dr
  i.setPc (Reg.inc i.pc)

/-- The first half of a push: `AR <- SP; SP <- mask_7(SP - 1)`; the value then goes through DR into `Mem[AR]` (R147). -/
def State.pushSlot (s : State) : State :=
  let a := s.setAr s.sp
  a.setSp (Reg.dec a.sp)

/-- A pop up to the read: `SP <- mask_7(SP + 1); AR <- SP; DR <- MemRead(AR, 1)` (R147). -/
def State.popRead (s : State) : State :=
  let p := s.setSp (Reg.inc s.sp)
  let a := p.setAr p.sp
  a.memRead

/-- `running <- 0`, by END or by INM without input (R161, R162). -/
def State.halt (s : State) : State := (s.setRunning false).setLastEnd .halted

/-- `Output(v)` appends to the output sequence (R11, R275). -/
def State.emit (s : State) (v : Int) : State := s.setOutput (s.output ++ [v])

/-- Count one free value as drawn (log 8). -/
def State.draw (s : State) : State := s.setDraws (s.draws + 1)

/-- Cycle step 6, made after a handler that returned: if still running and PC is in the breakpoint set, `running <- 0`
and the cycle signals `Breakpoint` (R108, D7). -/
def State.checkBreakpoint (s : State) : State :=
  if s.running && AddrSet.has s.breakpoints s.pc then (s.setRunning false).setLastEnd .breakpoint else s

/-- The fault of a kind with the state the cycle left. -/
def faultOf (k : FaultKind) (after : State) : Fault :=
  match k with
  | .overflow => .overflow after
  | .invalidAddress => .invalidAddress after
  | .noInputValue => .noInputValue after

/-- The kind of a fault (R260). -/
def faultKind : Fault → FaultKind
  | .overflow _ => .overflow
  | .invalidAddress _ => .invalidAddress
  | .noInputValue _ => .noInputValue

/-- The state a faulting cycle left, which the host is handed (R265, R266). -/
def faultState : Fault → State
  | .overflow s => s
  | .invalidAddress s => s
  | .noInputValue s => s

/-- `raise <Kind>`, the one way a fault is taken: the cycle ends at that point with the state as it stands; nothing is
saved, no mode changes, the running flag keeps its value (R11, R106, R266, R271). -/
def raise (k : FaultKind) (s : State) : Result := .fault (faultOf k (s.setLastEnd .faulted))

/-- The state at a fault inside a relative instruction, where AR and DR are unspecified between where the handler had
moved them (`moved`) and the step-3 values (`entry`): a free value picks (R179, R265, U2, C3; log 8). -/
def scratchAtFault (entry moved : State) : State :=
  let keep := Config.faultScratchMoved moved.draws
  ((moved.setAr (if keep then moved.ar else entry.ar)).setDr (if keep then moved.dr else entry.dr)).draw

/-- IR after `POPM`, unspecified between the fetched word and the bare address: a free value picks (R146, U3; log 9). -/
def State.popmScratchIr (s : State) (adr : Addr) : State :=
  (s.setIr (if Config.popmKeepsIr s.draws then s.ir else Reg.to 13 adr)).draw

/-- `s` with the word `w` (its bits below `nbits`) in the cell the next cycle fetches. -/
def State.placeWord (s : State) (nbits w : Nat) : State :=
  s.setMem (Memory.write s.mem s.pc.toNat (BitVec.ofNat 13 (w % 2 ^ nbits)))

end Sys2Proof.Machine
end

