-- ==== Sys2Proof/Machine/Operands.lean ====
section
/-! DEFINITION. The operand forms: the unconditional operand fetch every instruction makes (cycle step 3), and the
checked SP- or BP-relative address (spec/40_cycle.md R103, spec/46_relative.md R170). -/

namespace Sys2Proof.Machine

/-- Cycle step 3: `AR <- imm; DR <- MemRead(AR, 1)`, for every word, before the handler (R103). Its result is the entry
state of the handler (R12). -/
def State.operandFetch (s : State) (imm : Addr) : State := (s.setAr imm).memRead

/-- `base + x` as a mathematical integer, if it is at most 127 (R170): no wraparound. -/
def effectiveAddress (base x : Addr) : Option Addr :=
  if base.toNat + x.toNat ≤ Config.maxAddress then some (BitVec.ofNat 7 (base.toNat + x.toNat)) else none

/-- `ea(base)`: raise `InvalidAddress` before anything is written, or `AR <- base + x` and go on (R170). -/
def withRelative (base x : Addr) (e : State) (k : State → Result) : Result :=
  match effectiveAddress base x with
  | none => raise .invalidAddress e
  | some a => k (e.setAr a)

end Sys2Proof.Machine
end

