-- ==== Sys2Proof/Machine/Flags.lean ====
section
/-! DEFINITION. The machine has no flags (spec/10_state.md R35): what stands in their place is the test of AC a
conditional jump makes (spec/42_jumps.md R137) and the overflow check of the arithmetic (R33, R124). -/

namespace Sys2Proof.Machine

/-- The conditions of the seven jumps (R137). -/
inductive Cond where
  | always
  | minus
  | plus
  | zero
  | notMinus
  | notPlus
  | notZero
  deriving DecidableEq, Repr

/-- The condition holds of an accumulator value, as the jump's own rule writes it (R130 to R136). -/
def condHolds (c : Cond) (ac : Word) : Bool :=
  match c with
  | .always => true
  | .minus => Reg.leftmost ac
  | .plus => decide (0 < Reg.signedValue ac)
  | .zero => decide (Reg.signedValue ac = 0)
  | .notMinus => !Reg.leftmost ac
  | .notPlus => Reg.leftmost ac || decide (ac = 0)
  | .notZero => decide (Reg.signedValue ac ≠ 0)

/-- Commit an exact signed result: raise `Overflow` if it does not fit AC, leaving `s` as it stands, else
`AC <- mask_13(r)` (R33, R124). -/
def commitAc (r : Int) (s : State) : Result :=
  if Reg.willOverflow 13 r then raise .overflow s else .next (s.setAc (Reg.set 13 r))

/-- The same inside a relative instruction: at an `Overflow` the scratch registers are unspecified between `entry` and
the state `s` reached (R173, R179). -/
def commitAcRelative (r : Int) (entry s : State) : Result :=
  if Reg.willOverflow 13 r then raise .overflow (scratchAtFault entry s) else .next (s.setAc (Reg.set 13 r))

/-- `signed_13(AC) + signed_13(DR)`, the exact sum (R122). -/
def exactSum (s : State) : Int := Reg.signedValue s.ac + Reg.signedValue s.dr

/-- `signed_13(AC) - signed_13(DR)`, the exact difference (R123). -/
def exactDifference (s : State) : Int := Reg.signedValue s.ac - Reg.signedValue s.dr

/-- `if <condition>: PC <- AR` (R137). -/
def State.jumpIf (s : State) (c : Cond) : State := if condHolds c s.ac then s.setPc s.ar else s

end Sys2Proof.Machine
end

