-- ==== Sys2Proof/Machine/AccumulatorOps.lean ====
section
/-! DEFINITION. Meanings of NOP, NEG, INC, DEC (spec/44_accumulator_ops.md R150 to R153). -/

namespace Sys2Proof.Machine

/-- NOP: nothing but the operand fetch (R150). -/
def execNop (imm : Addr) (s : State) : Result := .next (s.operandFetch imm)

/-- NEG: `AC <- mask_13(-AC)`, never a fault (R151). -/
def execNeg (imm : Addr) (s : State) : Result :=
  let e := s.operandFetch imm
  .next (e.setAc (Reg.neg e.ac))

/-- INC: plus 1 with the overflow check (R152). -/
def execInc (imm : Addr) (s : State) : Result :=
  let e := s.operandFetch imm
  commitAc (Reg.signedValue e.ac + 1) e

/-- DEC: minus 1 with the overflow check (R153). -/
def execDec (imm : Addr) (s : State) : Result :=
  let e := s.operandFetch imm
  commitAc (Reg.signedValue e.ac - 1) e

end Sys2Proof.Machine
end

