-- ==== Sys2Proof/Machine/DataWord.lean ====
section
/-! DEFINITION. Meanings of the two DEF rows, data words executed as a no-operation (spec/40_cycle.md R105, spec/30_encoding.md R86). -/

namespace Sys2Proof.Machine

/-- DEF with opcode 40 to 47: nothing after the operand fetch, whatever the opcode bits (R105). -/
def execDefLow (_opc : Opcode) (imm : Addr) (s : State) : Result := .next (s.operandFetch imm)

/-- DEF with opcode 48 to 63: nothing after the operand fetch, whatever the opcode bits (R105). -/
def execDefHigh (_opc : Opcode) (imm : Addr) (s : State) : Result := .next (s.operandFetch imm)

end Sys2Proof.Machine
end

