-- ==== Sys2Proof/Machine/IoHalt.lean ====
section
/-! DEFINITION. Meanings of OUT, INM, END (spec/45_io_halt.md R160 to R162). -/

namespace Sys2Proof.Machine

/-- OUT adr: `Output(signed_13(DR))` (R160). -/
def execOut (adr : Addr) (s : State) : Result :=
  let e := s.operandFetch adr
  .next (e.emit (Reg.signedValue e.dr))

/-- INM adr: without input, clear the running flag and return; else `DR <- mask_13(v); MemWrite(AR, 1, DR)` (R161). -/
def execInm (adr : Addr) (s : State) : Result :=
  let e := s.operandFetch adr
  match e.input with
  | [] => .next e.halt
  | v :: rest => .next ((e.setInput rest).setDr (Reg.set 13 v)).memWrite

/-- END: `running <- 0` (R162). -/
def execEnd (imm : Addr) (s : State) : Result := .next (s.operandFetch imm).halt

end Sys2Proof.Machine
end

