-- ==== Sys2Proof/Machine/Jumps.lean ====
section
/-! DEFINITION. Meanings of the seven jumps (spec/42_jumps.md R130 to R137): AR holds the target from the operand fetch. -/

namespace Sys2Proof.Machine

/-- JMP adr: `PC <- AR` (R130). -/
def execJmp (adr : Addr) (s : State) : Result := .next ((s.operandFetch adr).jumpIf .always)

/-- JMS adr: if `AC[12] = 1` (R131). -/
def execJms (adr : Addr) (s : State) : Result := .next ((s.operandFetch adr).jumpIf .minus)

/-- JPL adr: if `signed_13(AC) > 0` (R132). -/
def execJpl (adr : Addr) (s : State) : Result := .next ((s.operandFetch adr).jumpIf .plus)

/-- JZE adr: if `signed_13(AC) = 0` (R133). -/
def execJze (adr : Addr) (s : State) : Result := .next ((s.operandFetch adr).jumpIf .zero)

/-- JNM adr: if `AC[12] = 0` (R134). -/
def execJnm (adr : Addr) (s : State) : Result := .next ((s.operandFetch adr).jumpIf .notMinus)

/-- JNP adr: if `AC[12] = 1` or `AC = 0` (R135). -/
def execJnp (adr : Addr) (s : State) : Result := .next ((s.operandFetch adr).jumpIf .notPlus)

/-- JNZ adr: if `signed_13(AC) != 0` (R136). -/
def execJnz (adr : Addr) (s : State) : Result := .next ((s.operandFetch adr).jumpIf .notZero)

end Sys2Proof.Machine
end

