-- ==== Sys2Proof/Machine/LoadStoreArith.lean ====
section
/-! DEFINITION. Meanings of LDA, STA, ADD, SUB (spec/41_load_store_arith.md). Each starts with the operand fetch of cycle step 3 (R103). -/

namespace Sys2Proof.Machine

/-- LDA adr: `AC <- DR` (R120). -/
def execLda (adr : Addr) (s : State) : Result :=
  let e := s.operandFetch adr
  .next (e.setAc e.dr)

/-- STA adr: `DR <- AC; MemWrite(AR, 1, DR)` (R121). -/
def execSta (adr : Addr) (s : State) : Result :=
  let e := s.operandFetch adr
  .next (e.setDr e.ac).memWrite

/-- ADD adr: the exact signed sum, `Overflow` or commit (R122, R124). -/
def execAdd (adr : Addr) (s : State) : Result :=
  let e := s.operandFetch adr
  commitAc (exactSum e) e

/-- SUB adr: the exact signed difference, `Overflow` or commit (R123, R124). -/
def execSub (adr : Addr) (s : State) : Result :=
  let e := s.operandFetch adr
  commitAc (exactDifference e) e

end Sys2Proof.Machine
end

