-- ==== Sys2Proof/Machine/PointerStack.lean ====
section
/-! DEFINITION. Meanings of SPBP, BPSP, PSHB, POPB (spec/47_pointer_stack.md R190 to R193). -/

namespace Sys2Proof.Machine

/-- SPBP: `BP <- SP` (R190). -/
def execSpbp (imm : Addr) (s : State) : Result :=
  let e := s.operandFetch imm
  .next (e.setBp e.sp)

/-- BPSP: `SP <- BP` (R191). -/
def execBpsp (imm : Addr) (s : State) : Result :=
  let e := s.operandFetch imm
  .next (e.setSp e.bp)

/-- PSHB: push BP, zero-extended (R192). -/
def execPshb (imm : Addr) (s : State) : Result :=
  let p := (s.operandFetch imm).pushSlot
  .next (p.setDr (Reg.to 13 p.bp)).memWrite

/-- POPB: pop, `BP <- DR` truncated (R193). -/
def execPopb (imm : Addr) (s : State) : Result :=
  let p := (s.operandFetch imm).popRead
  .next (p.setBp (Reg.to 7 p.dr))

end Sys2Proof.Machine
end

