-- ==== Sys2Proof/Machine/Relative.lean ====
section
/-! DEFINITION. Meanings of the SP- and BP-relative LDA, STA, ADD, SUB (spec/46_relative.md R170 to R179). -/

namespace Sys2Proof.Machine

/-- `ea(base); DR <- MemRead(AR, 1); AC <- DR` (R171, R175). -/
def relativeLoad (base x : Addr) (e : State) : Result :=
  withRelative base x e fun m =>
    let d := m.memRead
    .next (d.setAc d.dr)

/-- `ea(base); DR <- AC; MemWrite(AR, 1, DR)` (R172, R176). -/
def relativeStore (base x : Addr) (e : State) : Result :=
  withRelative base x e fun m => .next (m.setDr m.ac).memWrite

/-- `ea(base); DR <- MemRead(AR, 1)`, then the exact sum, `Overflow` or commit (R173, R177, R179). -/
def relativeAdd (base x : Addr) (e : State) : Result :=
  withRelative base x e fun m =>
    let d := m.memRead
    commitAcRelative (exactSum d) e d

/-- `ea(base); DR <- MemRead(AR, 1)`, then the exact difference, `Overflow` or commit (R174, R178, R179). -/
def relativeSub (base x : Addr) (e : State) : Result :=
  withRelative base x e fun m =>
    let d := m.memRead
    commitAcRelative (exactDifference d) e d

/-- LDAS x (R171). -/
def execLdas (x : Addr) (s : State) : Result := relativeLoad s.sp x (s.operandFetch x)

/-- STAS x (R172). -/
def execStas (x : Addr) (s : State) : Result := relativeStore s.sp x (s.operandFetch x)

/-- ADDS x (R173). -/
def execAdds (x : Addr) (s : State) : Result := relativeAdd s.sp x (s.operandFetch x)

/-- SUBS x (R174). -/
def execSubs (x : Addr) (s : State) : Result := relativeSub s.sp x (s.operandFetch x)

/-- LDAB x (R175). -/
def execLdab (x : Addr) (s : State) : Result := relativeLoad s.bp x (s.operandFetch x)

/-- STAB x (R176). -/
def execStab (x : Addr) (s : State) : Result := relativeStore s.bp x (s.operandFetch x)

/-- ADDB x (R177). -/
def execAddb (x : Addr) (s : State) : Result := relativeAdd s.bp x (s.operandFetch x)

/-- SUBB x (R178). -/
def execSubb (x : Addr) (s : State) : Result := relativeSub s.bp x (s.operandFetch x)

end Sys2Proof.Machine
end

