-- ==== Sys2Proof/Machine/RelativeIo.lean ====
section
/-! DEFINITION. Meanings of OUTS, OUTB, INS, INB (spec/48_relative_io.md R200 to R203). -/

namespace Sys2Proof.Machine

/-- `ea(base); DR <- MemRead(AR, 1); Output(signed_13(DR))` (R200, R201). -/
def relativeOut (base x : Addr) (e : State) : Result :=
  withRelative base x e fun m =>
    let d := m.memRead
    .next (d.emit (Reg.signedValue d.dr))

/-- `ea(base)`, then the input: none raises `NoInputValue`, a value goes through DR into `Mem[AR]` (R202, R203); AR at
the fault is unspecified between `base + x` and `x` (R265, U2). -/
def relativeIn (base x : Addr) (e : State) : Result :=
  withRelative base x e fun m =>
    match m.input with
    | [] => raise .noInputValue (scratchAtFault e m)
    | v :: rest => .next ((m.setInput rest).setDr (Reg.set 13 v)).memWrite

/-- OUTS x (R200). -/
def execOuts (x : Addr) (s : State) : Result := relativeOut s.sp x (s.operandFetch x)

/-- OUTB x (R201). -/
def execOutb (x : Addr) (s : State) : Result := relativeOut s.bp x (s.operandFetch x)

/-- INS x (R202). -/
def execIns (x : Addr) (s : State) : Result := relativeIn s.sp x (s.operandFetch x)

/-- INB x (R203). -/
def execInb (x : Addr) (s : State) : Result := relativeIn s.bp x (s.operandFetch x)

end Sys2Proof.Machine
end

