-- ==== Sys2Proof/Machine/SubroutineStack.lean ====
section
/-! DEFINITION. Meanings of JSR, RTN, PSH, POP, PSHM, POPM (spec/43_subroutine_stack.md R140 to R147). -/

namespace Sys2Proof.Machine

/-- JSR adr: the return address goes to the old SP, SP is recorded and decremented, `PC <- adr` (R140). -/
def execJsr (adr : Addr) (s : State) : Result :=
  let e := s.operandFetch adr
  let d := e.setDr (Reg.to 13 e.pc)
  let w := (d.setAr d.sp).memWrite
  let r := w.setRaSet (AddrSet.add w.raSet w.sp)
  .next ((r.setSp (Reg.dec r.sp)).setPc adr)

/-- RTN: pop into DR, drop the record if present, `PC <- DR` truncated (R141). -/
def execRtn (imm : Addr) (s : State) : Result :=
  let p := (s.operandFetch imm).popRead
  let r := p.setRaSet (AddrSet.remove p.raSet p.sp)
  .next (r.setPc (Reg.to 7 r.dr))

/-- PSH: push AC (R142). -/
def execPsh (imm : Addr) (s : State) : Result :=
  let p := (s.operandFetch imm).pushSlot
  .next (p.setDr p.ac).memWrite

/-- POP: pop into AC (R143). -/
def execPop (imm : Addr) (s : State) : Result :=
  let p := (s.operandFetch imm).popRead
  .next (p.setAc p.dr)

/-- PSHM adr: push the cell the operand fetch put into DR (R144, D8). -/
def execPshm (adr : Addr) (s : State) : Result := .next ((s.operandFetch adr).pushSlot).memWrite

/-- POPM adr: pop into DR, `AR <- adr` again, store (R145, D8); what IR ends as is free (R146, U3). -/
def execPopm (adr : Addr) (s : State) : Result :=
  let p := (s.operandFetch adr).popRead
  .next ((p.setAr adr).memWrite.popmScratchIr adr)

end Sys2Proof.Machine
end

