-- ==== Sys2Proof/Machine/Dispatch.lean ====
section
/-! DEFINITION. Cycle step 4, the dispatch: a closed choice, one arm per constructor (spec/40_cycle.md R104). -/

namespace Sys2Proof.Machine

def exec (i : Instr) (s : State) : Host.Outcome State Fault Refusal :=
  match i with
  | .lda adr => Sys2Proof.Machine.execLda adr s
  | .sta adr => Sys2Proof.Machine.execSta adr s
  | .add adr => Sys2Proof.Machine.execAdd adr s
  | .sub adr => Sys2Proof.Machine.execSub adr s
  | .jmp adr => Sys2Proof.Machine.execJmp adr s
  | .jms adr => Sys2Proof.Machine.execJms adr s
  | .jsr adr => Sys2Proof.Machine.execJsr adr s
  | .rtn imm => Sys2Proof.Machine.execRtn imm s
  | .jpl adr => Sys2Proof.Machine.execJpl adr s
  | .jze adr => Sys2Proof.Machine.execJze adr s
  | .out adr => Sys2Proof.Machine.execOut adr s
  | .endd imm => Sys2Proof.Machine.execEnd imm s
  | .psh imm => Sys2Proof.Machine.execPsh imm s
  | .pop imm => Sys2Proof.Machine.execPop imm s
  | .pshm adr => Sys2Proof.Machine.execPshm adr s
  | .popm adr => Sys2Proof.Machine.execPopm adr s
  | .nop imm => Sys2Proof.Machine.execNop imm s
  | .neg imm => Sys2Proof.Machine.execNeg imm s
  | .inc imm => Sys2Proof.Machine.execInc imm s
  | .dec imm => Sys2Proof.Machine.execDec imm s
  | .jnz adr => Sys2Proof.Machine.execJnz adr s
  | .ldas x => Sys2Proof.Machine.execLdas x s
  | .stas x => Sys2Proof.Machine.execStas x s
  | .adds x => Sys2Proof.Machine.execAdds x s
  | .subs x => Sys2Proof.Machine.execSubs x s
  | .jnm adr => Sys2Proof.Machine.execJnm adr s
  | .jnp adr => Sys2Proof.Machine.execJnp adr s
  | .outs x => Sys2Proof.Machine.execOuts x s
  | .inm adr => Sys2Proof.Machine.execInm adr s
  | .ins x => Sys2Proof.Machine.execIns x s
  | .ldab x => Sys2Proof.Machine.execLdab x s
  | .stab x => Sys2Proof.Machine.execStab x s
  | .addb x => Sys2Proof.Machine.execAddb x s
  | .subb x => Sys2Proof.Machine.execSubb x s
  | .outb x => Sys2Proof.Machine.execOutb x s
  | .inb x => Sys2Proof.Machine.execInb x s
  | .popb imm => Sys2Proof.Machine.execPopb imm s
  | .pshb imm => Sys2Proof.Machine.execPshb imm s
  | .bpsp imm => Sys2Proof.Machine.execBpsp imm s
  | .spbp imm => Sys2Proof.Machine.execSpbp imm s
  | .defLow opc imm => Sys2Proof.Machine.execDefLow opc imm s
  | .defHigh opc imm => Sys2Proof.Machine.execDefHigh opc imm s

end Sys2Proof.Machine
end

