-- ==== Sys2Proof/Machine/Step.lean ====
section
/-! DEFINITION. One cycle (spec/40_cycle.md R100), and the placing of a word where the next cycle fetches. -/

namespace Sys2Proof.Machine

/-- `cycle()`: fetch, decode, operand fetch and execute (`exec`), breakpoint check; a fault ends the cycle before the
check (R100, R106). It does not look at the running flag (R109, D5). -/
def step (s : State) : Host.Outcome State Fault Refusal :=
  match exec (decode s.fetch.ir) s.fetch with
  | .next t => .next t.checkBreakpoint
  | .fault f => .fault f
  | .refused r => .refused r

/-- `s` with the instruction of bits `w` in the cell `step` fetches next. -/
def State.withFetchWord (s : State) (nbits w : Nat) : State := s.placeWord nbits w

end Sys2Proof.Machine
end

