-- ==== Sys2Proof/Machine/Assembler.lean ====
section
/-! DEFINITION. The assembler (spec/49_assembler_and_loader.md R210 to R232): tokenizer, label binding, resolution,
output text. A text line is a list of characters; a source file is a list of lines (R210). -/

namespace Sys2Proof.Machine

/-- One line of text. -/
abbrev Text := List Char

/-- The error kinds of the toolchain (spec/60_exceptions.md R260). -/
inductive ToolErrorKind where
  /-- Malformed load or assemble source line, bad integer. -/
  | scriptError
  /-- Duplicate label, unresolved reference, missing EQUAL operand. -/
  | assembleError
  /-- Out-of-range address, a specialization of ScriptError. -/
  | invalidAddress
  deriving DecidableEq, Repr

/-- The kind is `ScriptError` or its specialization (R260). -/
def ToolErrorKind.isScriptError : ToolErrorKind → Bool
  | .scriptError => true
  | .assembleError => false
  | .invalidAddress => true

/-- An error of the assembler or loader: kind and 1-based line; message texts are not modelled (R231, R245, C4, U14). -/
structure ToolError where
  kind : ToolErrorKind
  line : Nat
  deriving DecidableEq, Repr

/-- The line an error names where it concerns tokens on lines `a` and `b`: free between the two if they differ (log 13). -/
def errorLine (a b : Nat) : Nat := if a = b then a else if Config.errorLineIsFirst a b then a else b

/-! ### Characters and words of text -/

/-- Whitespace: space, tab, CR, LF, VT, FF (R211, D16). -/
def isBlank (c : Char) : Bool :=
  c = ' ' || c = '\t' || c = '\r' || c = '\n' || c = '\x0b' || c = '\x0c'

/-- Drop everything from the first `;` (R211, R240). -/
def dropComment : Text → Text
  | [] => []
  | c :: cs => if c = ';' then [] else c :: dropComment cs

/-- Split at runs of blanks, dropping empty pieces; `acc` is the piece being read, last character first (R211). -/
def splitBlanksFrom : Text → Text → List Text
  | acc, [] => if acc.isEmpty then [] else [acc.reverse]
  | acc, c :: cs =>
    if isBlank c then
      (if acc.isEmpty then splitBlanksFrom [] cs else acc.reverse :: splitBlanksFrom [] cs)
    else splitBlanksFrom (c :: acc) cs

/-- Split at runs of blanks, dropping empty pieces (R211). -/
def splitBlanks (t : Text) : List Text := splitBlanksFrom [] t

/-- An ASCII letter in one case; other characters as they are (R213, D16). -/
def foldChar (c : Char) : Char :=
  if 'a'.toNat ≤ c.toNat && c.toNat ≤ 'z'.toNat then Char.ofNat (c.toNat - 32) else c

/-- The key of a label: ASCII letters folded to one case (R213). -/
def foldText (t : Text) : Text := t.map foldChar

/-- A decimal digit 0 to 9. -/
def isDecimal (c : Char) : Bool := '0'.toNat ≤ c.toNat && c.toNat ≤ '9'.toNat

/-- One or more decimal digits, read in base ten (R218). -/
def parseDigits (t : Text) : Option Nat :=
  if !t.isEmpty && t.all isDecimal then some (t.foldl (fun n c => n * 10 + (c.toNat - '0'.toNat)) 0) else none

/-- An integer: an optional `+` or `-`, then digits (R218, D16). -/
def parseInteger : Text → Option Int
  | '+' :: ds => (parseDigits ds).map Int.ofNat
  | '-' :: ds => (parseDigits ds).map fun n => -(n : Int)
  | t => (parseDigits t).map Int.ofNat

/-- A number in decimal. -/
def showNat (n : Nat) : Text := Nat.toDigits 10 n

/-- An integer in decimal, with a leading `-` when negative (R230). -/
def showInteger : Int → Text
  | .ofNat n => showNat n
  | .negSucc n => '-' :: showNat (n + 1)

/-! ### Tokens -/

/-- A token with its 1-based source line. `malformed` marks one outside the admitted language: two or more trailing
colons, or empty after the strip (R211, D16). -/
structure Token where
  text : Text
  line : Nat
  malformed : Bool
  deriving DecidableEq, Repr

/-- Strip one trailing colon from a piece (R211). -/
def tokenOfPiece (line : Nat) (piece : Text) : Token :=
  if piece.getLast? = some ':' then
    let t := piece.dropLast
    { text := t, line := line, malformed := t.isEmpty || decide (t.getLast? = some ':') }
  else { text := piece, line := line, malformed := false }

/-- The tokens of the lines, the first of which has number `n` (R211). -/
def tokenizeFrom : Nat → List Text → List Token
  | _, [] => []
  | n, l :: ls => (splitBlanks (dropComment l)).map (tokenOfPiece n) ++ tokenizeFrom (n + 1) ls

/-- The token stream of a source file (R211). -/
def tokenize (lines : List Text) : List Token := tokenizeFrom 1 lines

/-! ### Mnemonics -/

/-- What a mnemonic names: a table opcode, or a data word (`DEF`) (R212). -/
inductive AsmOp where
  | table (opc : Nat)
  | data
  deriving DecidableEq, Repr

/-- The place of a text in a list of names, counted from `n`. -/
def findName (t : Text) : Nat → List String → Option Nat
  | _, [] => none
  | n, m :: ms => if m.toList = t then some n else findName t (n + 1) ms

/-- The opcode or directive a token's exact text names, upper case only (R212, D16). -/
def asmOpOf (t : Text) : Option AsmOp :=
  if t = "DEF".toList then some .data else (findName t 0 tableMnemonics).map .table

/-- The mnemonic's text. -/
def AsmOp.name : AsmOp → Text
  | .table opc => (tableMnemonics.getD opc "DEF").toList
  | .data => "DEF".toList

/-- Whether an argument follows: not for the twelve of R83 (R215). -/
def AsmOp.takesArgument : AsmOp → Bool
  | .table opc => !noArgumentOpcodes.contains opc
  | .data => true

/-- Token classes (R212). -/
inductive TokenClass where
  | op (o : AsmOp)
  | equal
  /-- Equal to a mnemonic, `DEF` or `EQUAL` only after case folding: refused (D16). -/
  | wrongCase
  | label
  deriving DecidableEq, Repr

/-- Classify a token by its exact text (R212). -/
def classify (t : Text) : TokenClass :=
  match asmOpOf t with
  | some o => .op o
  | none =>
    if t = "EQUAL".toList then .equal
    else if (asmOpOf (foldText t)).isSome || decide (foldText t = "EQUAL".toList) then .wrongCase
    else .label

/-! ### Pass one -/

/-- What a label is bound to (R213). -/
inductive Binding where
  | index (n : Nat)
  | value (v : Int)
  deriving DecidableEq, Repr

/-- The integer a binding resolves to (R219). -/
def Binding.toInt : Binding → Int
  | .index n => n
  | .value v => v

/-- A recorded instruction (R213). -/
structure AsmInstr where
  number : Nat
  op : AsmOp
  arg : Option Token
  line : Nat
  deriving DecidableEq, Repr

/-- The label table: folded names to bindings, oldest first (R213). -/
abbrev LabelTable := List (Text × Binding)

/-- The binding of a name, folded (R219). -/
def LabelTable.find : LabelTable → Text → Option Binding
  | [], _ => none
  | (k, b) :: rest, name => if k = foldText name then some b else LabelTable.find rest name

/-- The state of pass one (R213): the pending-label queue oldest first, the label table, the recorded instructions
oldest first, the instruction counter. -/
structure AsmState where
  pending : List Token
  labels : LabelTable
  recorded : List AsmInstr
  counter : Nat
  deriving DecidableEq, Repr

/-- Bind every pending label to the instruction's index, oldest first; a second binding of a name is an error (R215). -/
def bindPending (index line : Nat) : List Token → LabelTable → Except ToolError LabelTable
  | [], labels => .ok labels
  | t :: ts, labels =>
    if (LabelTable.find labels t.text).isSome then .error ⟨.assembleError, errorLine t.line line⟩
    else bindPending index line ts (labels ++ [(foldText t.text, .index index)])

/-- Record an instruction: bind the pending labels, clear the queue, advance the counter (R215). -/
def recordInstr (op : AsmOp) (arg : Option Token) (line : Nat) (st : AsmState) : Except ToolError AsmState :=
  match bindPending st.counter line st.pending st.labels with
  | .error e => .error e
  | .ok labels => .ok {
      pending := []
      labels := labels
      recorded := st.recorded ++ [{ number := st.counter, op := op, arg := arg, line := line }]
      counter := st.counter + 1 }

/-- Bind the newest pending label `name` to the integer of `v`, the token after an `EQUAL` at line `line` (R216). -/
def bindEqual (name v : Token) (line : Nat) (st : AsmState) : Except ToolError AsmState :=
  match parseInteger v.text with
  | none => .error ⟨.scriptError, errorLine v.line line⟩
  | some n =>
    if (LabelTable.find st.labels name.text).isSome then .error ⟨.assembleError, errorLine name.line line⟩
    else .ok { st with pending := st.pending.dropLast, labels := st.labels ++ [(foldText name.text, .value n)] }

/-- What pass one expects of the next token: to classify it, or to take it whatever it is as an argument (R215) or as an
`EQUAL` value for a pending label (R216). -/
inductive AsmMode where
  | classify
  | argument (op : AsmOp) (line : Nat)
  | equalValue (name : Token) (line : Nat)
  deriving DecidableEq, Repr

/-- One token of pass one (R214 to R217). -/
def asmToken (t : Token) (mode : AsmMode) (st : AsmState) : Except ToolError (AsmMode × AsmState) :=
  if t.malformed then .error ⟨.scriptError, t.line⟩
  else
    match mode with
    | .argument op line => (recordInstr op (some t) line st).map fun st' => (.classify, st')
    | .equalValue name line => (bindEqual name t line st).map fun st' => (.classify, st')
    | .classify =>
      match classify t.text with
      | .wrongCase => .error ⟨.scriptError, t.line⟩
      | .label => .ok (.classify, { st with pending := st.pending ++ [t] })
      | .equal =>
        match st.pending.getLast? with
        | none => .error ⟨.assembleError, t.line⟩
        | some name => .ok (.equalValue name t.line, st)
      | .op o =>
        if o.takesArgument then .ok (.argument o t.line, st)
        else (recordInstr o none t.line st).map fun st' => (.classify, st')

/-- Pass one over the stream (R214). A mnemonic whose argument is missing at its end, or an `EQUAL` whose value is, is an
`AssembleError` at its line; labels still pending are no error (R215 to R217, D16). -/
def passOne : List Token → AsmMode → AsmState → Except ToolError AsmState
  | [], .classify, st => .ok st
  | [], .argument _ line, _ => .error ⟨.assembleError, line⟩
  | [], .equalValue _ line, _ => .error ⟨.assembleError, line⟩
  | t :: ts, mode, st =>
    match asmToken t mode st with
    | .error e => .error e
    | .ok (mode', st') => passOne ts mode' st'

/-! ### Pass two and output -/

/-- One line of assembled text: index, mnemonic, resolved argument (R230). -/
structure AsmLine where
  number : Nat
  op : AsmOp
  arg : Option Int
  deriving DecidableEq, Repr

/-- Resolve one instruction's argument: the label table first, then a literal integer (R219). -/
def resolveInstr (labels : LabelTable) (i : AsmInstr) : Except ToolError AsmLine :=
  match i.arg with
  | none => .ok { number := i.number, op := i.op, arg := none }
  | some t =>
    match LabelTable.find labels t.text with
    | some b => .ok { number := i.number, op := i.op, arg := some b.toInt }
    | none =>
      match parseInteger t.text with
      | some n => .ok { number := i.number, op := i.op, arg := some n }
      | none => .error ⟨.assembleError, errorLine t.line i.line⟩

/-- Pass two, in instruction order; the first error ends it (R219, R231). -/
def resolveAll (labels : LabelTable) : List AsmInstr → Except ToolError (List AsmLine)
  | [] => .ok []
  | i :: is =>
    match resolveInstr labels i with
    | .error e => .error e
    | .ok l =>
      match resolveAll labels is with
      | .error e => .error e
      | .ok ls => .ok (l :: ls)

/-- The text of an assembled line: `<index> <opcode> [<resolved-arg>]` (R230). -/
def AsmLine.show (l : AsmLine) : Text :=
  showNat l.number ++ [' '] ++ l.op.name ++
    match l.arg with
    | none => []
    | some v => ' ' :: showInteger v

/-- Assemble to the list of (address, opcode, immediate) triples (R230); an error gives no partial result (R231). -/
def assembleLines (source : List Text) : Except ToolError (List AsmLine) :=
  match passOne (tokenize source) .classify { pending := [], labels := [], recorded := [], counter := 0 } with
  | .error e => .error e
  | .ok st => resolveAll st.labels st.recorded

/-- Assemble to text, the loader's input format (R230). -/
def assemble (source : List Text) : Except ToolError (List Text) := (assembleLines source).map (List.map AsmLine.show)

end Sys2Proof.Machine
end

