-- ==== Sys2Proof/Machine/Loader.lean ====
section
/-! DEFINITION. The encoder of text, `parse_command`, and the loader (spec/30_encoding.md R90 to R93,
spec/49_assembler_and_loader.md R240 to R246), and the full reset a clearing load begins with
(spec/70_reset_and_hazards.md R290). -/

namespace Sys2Proof.Machine

/-- The word of a mnemonic and its argument (R90 to R93): `c * 128 + n` for n in 0..127, immediate 0 where no argument is
taken, the masked literal for DEF; anything else is refused and nothing is truncated. -/
def encodeCommand (op : AsmOp) (arg : Option Int) : Except ToolErrorKind Word :=
  match op, op.takesArgument, arg with
  | .table opc, false, none => .ok (BitVec.ofNat 13 (opc * 128))
  | .table _, false, some _ => .error .scriptError
  | .table opc, true, some n =>
    if addressInRange n then .ok (BitVec.ofInt 13 (opc * 128 + n)) else .error .invalidAddress
  | .table _, true, none => .error .scriptError
  | .data, _, some n => if -4096 ≤ n ∧ n ≤ 8191 then .ok (BitVec.ofInt 13 n) else .error .scriptError
  | .data, _, none => .error .scriptError

/-- The mnemonic field and the fields after it: at most one argument, which must be an integer (R240, R218). -/
def parseFields (mnemonic : Text) (args : List Text) : Except ToolErrorKind Word :=
  match asmOpOf mnemonic with
  | none => .error .scriptError
  | some op =>
    match args with
    | [] => encodeCommand op none
    | [a] =>
      match parseInteger a with
      | none => .error .scriptError
      | some n => encodeCommand op (some n)
    | _ :: _ :: _ => .error .scriptError

/-- `parse_command("<MNEMONIC> [<arg>]")` (R90). -/
def parseCommand (t : Text) : Except ToolErrorKind Word :=
  match splitBlanks t with
  | [] => .error .scriptError
  | m :: args => parseFields m args

/-- The visible part of a loader line: no comment, no `\x1a` (R240, D15). -/
def loaderText (l : Text) : Text := (dropComment l).filter fun c => decide (c ≠ '\x1a')

/-- One loader line: `none` for a line with nothing on it, else an address and the word to put there (R240, R241, R243).
The fields are checked from left to right (log 14). -/
def parseLoadLine (l : Text) : Except ToolErrorKind (Option (Nat × Word)) :=
  match splitBlanks (loaderText l) with
  | [] => .ok none
  | [_] => .error .scriptError
  | a :: m :: args =>
    if 1 < args.length then .error .scriptError
    else
      match parseInteger a with
      | none => .error .scriptError
      | some n =>
        if addressInRange n then
          match parseFields m args with
          | .error e => .error e
          | .ok w => .ok (some (n.toNat, w))
        else .error .invalidAddress

/-- Every line checked, the first of which has number `n`; the first bad one is reported (R245). -/
def parseLoad : Nat → List Text → Except ToolError (List (Nat × Word))
  | _, [] => .ok []
  | n, l :: ls =>
    match parseLoadLine l with
    | .error k => .error ⟨k, n⟩
    | .ok r =>
      match parseLoad (n + 1) ls with
      | .error e => .error e
      | .ok rest =>
        match r with
        | none => .ok rest
        | some w => .ok (w :: rest)

/-- Write the words in order; a later line for the same address wins (R243, D15). -/
def writeWords : List (Nat × Word) → Memory → Memory
  | [], m => m
  | (a, w) :: rest, m => writeWords rest (Memory.write m a w)

/-- `reset()` for given `RESET_SP` and `RESET_BP`: registers, memory, running flag and return-address set to their reset
values; breakpoints, input and output as they were (R290, R50, D4). The model's count of draws goes on. -/
def State.hostReset (s : State) (sp bp : Addr) : State :=
  { State.resetWith sp bp with
    breakpoints := s.breakpoints, input := s.input, output := s.output, draws := s.draws }

/-- `load(lines, clear)`: every line is checked before anything changes; `clear` resets first; only the named cells are
then written, never PC or the running flag (R244, R245, D15). -/
def State.load (s : State) (sp bp : Addr) (lines : List Text) (clear : Bool) : Except ToolError State :=
  match parseLoad 1 lines with
  | .error e => .error e
  | .ok words =>
    let base := if clear then s.hostReset sp bp else s
    .ok ((base.setMem (writeWords words base.mem)).setLastEnd .notRun)

end Sys2Proof.Machine
end

