-- ==== Sys2Proof/Machine/Run.lean ====
section
/-! DEFINITION. The run loop, the ends of a run, and the machine status (spec/40_cycle.md R109, R110;
spec/10_state.md R37). -/

namespace Sys2Proof.Machine

/-- `run()` "loops `cycle()` while the running flag is set" (R109), for at most `fuel` cycles: a run need not end (R110).
A fault ends it. -/
def runLoop : Nat → State → Result
  | 0, s => .next s
  | fuel + 1, s =>
    if s.running then
      match step s with
      | .next t => runLoop fuel t
      | .fault f => .fault f
      | .refused r => .refused r
    else .next s

/-- The four ends of a run (R110). -/
inductive RunEnd where
  /-- Halted by `END` (R162). -/
  | haltedByEnd
  /-- Halted by `INM` without input (R161). -/
  | haltedByInm
  /-- Stopped at a breakpoint (R108). -/
  | breakpoint
  /-- The fault outcome of a cycle (R266). -/
  | faulted
  deriving DecidableEq, Repr

/-- The end of a run a cycle's answer is, if it is one: "the first state after a completed cycle in which the running
flag is 0, or the fault outcome of a cycle" (R110). A flag the host cleared, or a single step of a stopped machine whose
instruction did not halt, is none of the four. IR still holds the word of the cycle: `END` and `INM` leave it, and no
other instruction halts. -/
def runEnd (r : Result) : Option RunEnd :=
  match r with
  | .fault _ => some .faulted
  | .refused _ => none
  | .next t =>
    if t.running then none
    else
      match t.lastEnd with
      | .halted => some (if opcodeField t.ir = 28 then .haltedByInm else .haltedByEnd)
      | .breakpoint => some .breakpoint
      | .notRun => none
      | .completed => none
      | .faulted => none

/-- The state is one in which a run ended without a fault: the flag is 0 and the last cycle halted or hit a breakpoint
(R110), which the host's start forgets (log 7). A single step that runs `END` on a stopped machine leaves it too. -/
def State.ended (s : State) : Bool := (runEnd (.next s)).isSome

/-- The machine statuses the document names (R37). -/
inductive Status where
  | idle
  | running
  | halted
  | faulted
  | breakpointHit
  deriving DecidableEq, Repr

/-- The status, read off the running flag and the outcome of the last cycle (R37). A machine the host paused or
single-stepped has a status the document does not name: none (log 7). -/
def State.status (s : State) : Option Status :=
  if s.lastEnd = .faulted then some .faulted
  else if s.running then some .running
  else
    match s.lastEnd with
    | .notRun => some .idle
    | .halted => some .halted
    | .breakpoint => some .breakpointHit
    | .completed => none
    | .faulted => some .faulted

end Sys2Proof.Machine
end

