-- ==== Sys2Proof/Machine/HostOps.lean ====
section
/-! DEFINITION. What the host may do, and only between cycles (spec/70_reset_and_hazards.md R297): every operation is a
function on State beside `step`, which is the host's single step. -/

namespace Sys2Proof.Machine

/-- The seven registers by name (R20). -/
inductive RegName where
  | ir
  | dr
  | pc
  | ac
  | ar
  | sp
  | bp
  deriving DecidableEq, Repr

/-- Read any register: its raw value (R297). -/
def State.readReg (s : State) (r : RegName) : Nat :=
  match r with
  | .ir => s.ir.toNat
  | .dr => s.dr.toNat
  | .pc => s.pc.toNat
  | .ac => s.ac.toNat
  | .ar => s.ar.toNat
  | .sp => s.sp.toNat
  | .bp => s.bp.toNat

/-- Write any register: the masking of `set` applies (R297, R28). -/
def State.writeReg (s : State) (r : RegName) (v : Int) : State :=
  match r with
  | .ir => s.setIr (Reg.set 13 v)
  | .dr => s.setDr (Reg.set 13 v)
  | .pc => s.setPc (Reg.set 7 v)
  | .ac => s.setAc (Reg.set 13 v)
  | .ar => s.setAr (Reg.set 7 v)
  | .sp => s.setSp (Reg.set 7 v)
  | .bp => s.setBp (Reg.set 7 v)

/-- Why a host operation is refused; the machine is then unchanged. -/
inductive HostError where
  /-- A load failed (R245). -/
  | load (e : ToolError)
  /-- A cell address outside 0..127 (R62, R76). -/
  | invalidAddress
  /-- A cell value outside 0..8191 (R76, D19). -/
  | valueNotAdmitted
  deriving DecidableEq, Repr

/-- Read any cell (R297): an address outside 0..127 fails (R62). -/
def State.readCell (s : State) (a : Int) : Except HostError Word :=
  if addressInRange a then .ok (Memory.read s.mem a.toNat) else .error .invalidAddress

/-- Write a cell: address 0..127, value 0..8191, else refused (R76, R297, D19). -/
def State.writeCell (s : State) (a v : Int) : Except HostError State :=
  if addressInRange a then
    (if 0 ≤ v ∧ v ≤ 8191 then .ok (s.setMem (Memory.write s.mem a.toNat (Reg.set 13 v)))
     else .error .valueNotAdmitted)
  else .error .invalidAddress

/-- The host operations of R297 and R76 that change the machine; the single step is `step`. -/
inductive HostOp where
  | reset (sp bp : Addr)
  | load (sp bp : Addr) (lines : List Text) (clear : Bool)
  | start
  | pause
  | setBreakpoint (a : Addr)
  | clearBreakpoint (a : Addr)
  | writeReg (r : RegName) (v : Int)
  | writeCell (a v : Int)
  | clearMemory
  | supplyInput (v : Int)
  | takeOutput
  deriving DecidableEq, Repr

/-- The effect of a host operation (R297). Start and resume set the running flag, the only thing that does (R36), and
execution goes on at PC, also after a fault (R267); how the last run ended is then no longer the status (log 7). Taking the output
empties it. -/
def hostStep (op : HostOp) (s : State) : Except HostError State :=
  match op with
  | .reset sp bp => .ok (s.hostReset sp bp)
  | .load sp bp lines clear =>
    match s.load sp bp lines clear with
    | .ok t => .ok t
    | .error e => .error (.load e)
  | .start => .ok ((s.setRunning true).setLastEnd .completed)
  | .pause => .ok (s.setRunning false)
  | .setBreakpoint a => .ok (s.setBreakpoints (AddrSet.add s.breakpoints a))
  | .clearBreakpoint a => .ok (s.setBreakpoints (AddrSet.remove s.breakpoints a))
  | .writeReg r v => .ok (s.writeReg r v)
  | .writeCell a v => s.writeCell a v
  | .clearMemory => .ok (s.setMem (Memory.clear s.mem))
  | .supplyInput v => .ok (s.setInput (s.input ++ [v]))
  | .takeOutput => .ok (s.setOutput [])

/-- A launch: assemble the source, load it clearing, start (R247). -/
def State.launch (s : State) (sp bp : Addr) (source : List Text) : Except HostError State :=
  match assemble source with
  | .error e => .error (.load e)
  | .ok lines =>
    match hostStep (.load sp bp lines true) s with
    | .error e => .error e
    | .ok t => hostStep .start t

end Sys2Proof.Machine
end

