-- ==== Sys2Proof/Safety.lean ====
section
/-! DEFINITION. The terms claims are stated in: what a step answered, the canonical form every step keeps. How a run may end
(spec/40_cycle.md R110) is in Machine/Run.lean. -/

namespace Sys2Proof.Machine

/-- The next state of a result, if it is one. -/
def nextState? : Result → Option State
  | .next t => some t
  | .fault _ => none
  | .refused _ => none

/-- The fault of a result, if it is one. -/
def fault? : Result → Option Fault
  | .next _ => none
  | .fault f => some f
  | .refused _ => none

/-- The machine's data is in canonical form: the memory (R60), the two sets of addresses (R38, R42), and every value
shown is a signed 13-bit value (R160, R275). -/
abbrev State.Inv (s : State) : Prop :=
  Memory.wf s.mem = true ∧ AddrSet.wf s.raSet = true ∧ AddrSet.wf s.breakpoints = true ∧
    ∀ v ∈ s.output, -4096 ≤ v ∧ v ≤ 4095

/-- `Mem[a]`: the word in cell `a` (R10). -/
def State.cell (s : State) (a : Addr) : Word := Memory.read s.mem a.toNat

/-- Memory `m'` is memory `m` with `v` stored in cell `a`: cell `a` reads as `v`, every other cell as before. -/
def Stores (m m' : Memory) (a : Addr) (v : Word) : Prop :=
  ∀ b : Nat, Memory.read m' b = if b = a.toNat then v else Memory.read m b

/-- The exact result fits a signed 13-bit register: R124's range. -/
def Fits13 (r : Int) : Prop := -4096 ≤ r ∧ r ≤ 4095

/-- The exact signed result a checked instruction computes (R124), if its operand's address exists. -/
def exactResult (i : Instr) (s : State) : Option Int :=
  match i with
  | .add a => some (s.ac.toInt + (s.cell a).toInt)
  | .sub a => some (s.ac.toInt - (s.cell a).toInt)
  | .inc _ => some (s.ac.toInt + 1)
  | .dec _ => some (s.ac.toInt - 1)
  | .adds x => if s.sp.toNat + x.toNat ≤ 127 then some (s.ac.toInt + (s.cell (s.sp + x)).toInt) else none
  | .subs x => if s.sp.toNat + x.toNat ≤ 127 then some (s.ac.toInt - (s.cell (s.sp + x)).toInt) else none
  | .addb x => if s.bp.toNat + x.toNat ≤ 127 then some (s.ac.toInt + (s.cell (s.bp + x)).toInt) else none
  | .subb x => if s.bp.toNat + x.toNat ≤ 127 then some (s.ac.toInt - (s.cell (s.bp + x)).toInt) else none
  | _ => none

/-- The step answers a next state: no fault (R267, D6: a fault is never a successful final state), no refusal. -/
def SafeStep (s : State) : Prop := ∃ t, step s = .next t

end Sys2Proof.Machine
end

