-- ==== Sys2Proof/Certificates/Slice0/Obligations.lean ====
section
/-! DEFINITION. The statements for the provers. In a statement about `exec i s`, `s` is the state after cycle step 1: PC
is already past the instruction. An equation for the whole next state says the frame too: every field it does not name
is as in `s`. Where a cell is stored, the new memory is named by what every cell of it reads as (`Stores`). -/

open Sys2Proof Sys2Proof.Machine

/-! ### Encoding -/

/-- A few words written out from R80 and R84 decode to the instructions they stand for, one or more of every family. -/
def Obligations.WrittenOutWordsDecode : Prop :=
  decode 0b0000000001010 = .lda 10 ∧ decode 0b0000010001010 = .sta 10 ∧ decode 0b0001000001111 = .jmp 15 ∧
  decode 0b0001100000111 = .jsr 7 ∧ decode 0b0001110000000 = .rtn 0 ∧ decode 0b0100100000000 = .inc 0 ∧
  decode 0b0010100000011 = .out 3 ∧ decode 0b0111000001010 = .inm 10 ∧ decode 0b0101010000011 = .ldas 3 ∧
  decode 0b1000000000011 = .addb 3 ∧ decode 0b1001111111111 = .spbp 127 ∧ decode 0b1000100000011 = .outb 3 ∧
  decode 0b1010000000000 = .defLow 40 0 ∧ decode 0b1111111111111 = .defHigh 63 127

/-- Decoding the word of a well-formed instruction gives it back, every operand at every value. -/
def Obligations.DecodeOfEncodeIsIdentity : Prop :=
  ∀ i : Instr, i.wellFormed = true → decode (encode i) = i

/-- Every word is the word of exactly the well-formed instruction it decodes to: no bit is dropped. -/
def Obligations.EncodeOfDecodeIsIdentity : Prop :=
  ∀ w : Word, encode (decode w) = w ∧ (decode w).wellFormed = true

/-- R80, R81: opcode and immediate are quotient and remainder of the word by 128, and make it up again. -/
def Obligations.WordSplitsIntoFields : Prop :=
  ∀ w : Word, (opcodeField w).toNat = w.toNat / 128 ∧ (immField w).toNat = w.toNat % 128 ∧
    w.toNat = (opcodeField w).toNat * 128 + (immField w).toNat

/-- R89: the name of a word is the table mnemonic of its opcode when that is 0..39, else `DEF`; R86: exactly the words
5120..8191 decode to a data word. -/
def Obligations.WordNamesFollowTheTable : Prop :=
  ∀ w : Word,
    (∀ h : (opcodeField w).toNat < tableMnemonics.length, commandName w = tableMnemonics[(opcodeField w).toNat]) ∧
    (tableMnemonics.length ≤ (opcodeField w).toNat → commandName w = "DEF") ∧
    (5120 ≤ w.toNat ↔ decode w = .defLow (opcodeField w) (immField w) ∨
      decode w = .defHigh (opcodeField w) (immField w))

/-- R88: whatever the state and the word at PC, the cycle completes or raises one of the three faults; no word is
refused. -/
def Obligations.EveryWordRunsOrFaults : Prop :=
  ∀ s : State, (∃ t, step s = .next t) ∨ (∃ f, step s = .fault f)

/-! ### The cycle -/

/-- A cycle is the decoded instruction run on the fetched state, then the breakpoint check
(R100, R101, R108 as D7 reads it; lastEnd is the model's, log 7); a fault ends it before the check. That no cycle is
refused is `EveryWordRunsOrFaults`. -/
def Obligations.StepRunsTheDecodedInstruction : Prop :=
  ∀ (s : State) (i : Instr), decode (s.cell s.pc) = i →
    let f : State := { s with
      ar := s.pc, dr := s.cell s.pc, ir := s.cell s.pc, pc := s.pc + 1, lastEnd := .completed }
    (∀ u, exec i f = .next u → step s = .next
      (if u.running = true ∧ AddrSet.has u.breakpoints u.pc = true
        then { u with running := false, lastEnd := .breakpoint } else u)) ∧
    (∀ x, exec i f = .fault x → step s = .fault x)

/-- R107 and R265, with the freedom R179 and R265 leave to AR and DR: a faulting cycle has advanced PC and loaded IR;
AC, SP, BP, memory, the running flag, the return-address set, breakpoints, input and output are as before the cycle.
AR and DR hold `imm` and `Mem[imm]`, or, for an Overflow of ADDS, SUBS, ADDB, SUBB, may hold `base + x` and its cell,
or, for a NoInputValue, AR may hold `base + x`. That an InvalidAddress of INS or INB leaves the input as it was rests
on the order the spec chose, the address checked before input is asked for (D11, log 10). The model's lastEnd and
draws are left open (log 7, 8). -/
def Obligations.FaultingCycleIsPrecise : Prop :=
  ∀ (s : State) (f : Fault), step s = .fault f →
    let t := faultState f
    let i := decode (s.cell s.pc)
    t.pc = s.pc + 1 ∧ t.ir = s.cell s.pc ∧ t.ac = s.ac ∧ t.sp = s.sp ∧ t.bp = s.bp ∧ t.mem = s.mem ∧
    t.running = s.running ∧ t.raSet = s.raSet ∧ t.breakpoints = s.breakpoints ∧ t.input = s.input ∧
    t.output = s.output ∧
    ((t.ar = i.imm ∧ t.dr = s.cell i.imm) ∨
      (faultKind f = .overflow ∧ (i = .adds i.imm ∨ i = .subs i.imm) ∧
        t.ar = s.sp + i.imm ∧ t.dr = s.cell (s.sp + i.imm)) ∨
      (faultKind f = .overflow ∧ (i = .addb i.imm ∨ i = .subb i.imm) ∧
        t.ar = s.bp + i.imm ∧ t.dr = s.cell (s.bp + i.imm)) ∨
      (faultKind f = .noInputValue ∧ i = .ins i.imm ∧ t.ar = s.sp + i.imm ∧ t.dr = s.cell i.imm) ∨
      (faultKind f = .noInputValue ∧ i = .inb i.imm ∧ t.ar = s.bp + i.imm ∧ t.dr = s.cell i.imm))

/-- The scratch registers a cycle starts with decide nothing (R43): two states that differ only in AR, DR, IR (and in the
model's lastEnd) take the same step. -/
def Obligations.ScratchRegistersAreNotRead : Prop :=
  ∀ (s : State) (ir dr : Word) (ar : Addr) (e : CycleEnd),
    step { s with ir := ir, dr := dr, ar := ar, lastEnd := e } = step s

/-- No rule of the core reads the return-address set (R42): two states that differ only in it take the same step up to
that set, whether it completes or faults. -/
def Obligations.ReturnAddressSetIsNotRead : Prop :=
  ∀ (s : State) (rs : AddrSet),
    (∀ t, step s = .next t → ∃ rt, step { s with raSet := rs } = .next { t with raSet := rt }) ∧
    (∀ f, step s = .fault f → step { s with raSet := rs } =
      .fault (faultOf (faultKind f) { faultState f with raSet := rs }))

/-- Only the host sets the running flag (R36): a cycle never does, and a cycle that clears it ran END, or INM without
input, or ended on a breakpoint. The breakpoint set itself is never changed (R38). -/
def Obligations.RunningFlagIsOnlyCleared : Prop :=
  ∀ s t : State, step s = .next t →
    (t.running = true → s.running = true) ∧
    (s.running = true → t.running = false →
      decode (s.cell s.pc) = .endd (immField (s.cell s.pc)) ∨
      (decode (s.cell s.pc) = .inm (immField (s.cell s.pc)) ∧ s.input = []) ∨
      AddrSet.has s.breakpoints t.pc = true) ∧
    t.breakpoints = s.breakpoints

/-- R275, the ports as lists (D11, D12, log 6): a cycle takes at most the next value of the input, and
appends at most one value to the output, a signed 13-bit one. -/
def Obligations.PortsMoveInOrder : Prop :=
  ∀ s t : State, step s = .next t →
    (t.input = s.input ∨ ∃ v, s.input = v :: t.input) ∧
    (t.output = s.output ∨ ∃ v, t.output = s.output ++ [v] ∧ -4096 ≤ v ∧ v ≤ 4095)

/-! ### Who writes what (R20, R27, R64, R106) -/

/-- R106: the nine instructions named are the only ones that write PC; every other leaves the incremented PC. -/
def Obligations.OnlyNineInstructionsWritePc : Prop :=
  ∀ (i : Instr) (s t : State), exec i s = .next t →
    t.pc = s.pc ∨ ∃ a, i ∈ [.jmp a, .jms a, .jpl a, .jze a, .jnm a, .jnp a, .jnz a, .jsr a, .rtn a]

/-- R64: the writers of memory are the eleven instructions named; every other leaves every cell as it was. -/
def Obligations.OnlyElevenInstructionsWriteMemory : Prop :=
  ∀ (i : Instr) (s t : State), exec i s = .next t →
    (∀ b, Memory.read t.mem b = Memory.read s.mem b) ∨
    ∃ a, i ∈ [.sta a, .jsr a, .psh a, .pshm a, .popm a, .inm a, .stas a, .stab a, .pshb a, .ins a, .inb a]

/-- R20's table: the writers of AC. -/
def Obligations.OnlyListedInstructionsWriteAc : Prop :=
  ∀ (i : Instr) (s t : State), exec i s = .next t →
    t.ac = s.ac ∨
    ∃ a, i ∈ [.lda a, .add a, .sub a, .pop a, .neg a, .inc a, .dec a, .ldas a, .adds a, .subs a, .ldab a, .addb a,
      .subb a]

/-- R20's table and R27: SP is written by nine instructions only, BP by SPBP and POPB only. -/
def Obligations.OnlyListedInstructionsWritePointers : Prop :=
  ∀ (i : Instr) (s t : State), exec i s = .next t →
    (t.sp = s.sp ∨
      ∃ a, i ∈ [.jsr a, .rtn a, .psh a, .pop a, .pshm a, .popm a, .pshb a, .popb a, .bpsp a]) ∧
    (t.bp = s.bp ∨ ∃ a, i ∈ [.spbp a, .popb a])

/-! ### Load, store, arithmetic (41) -/

/-- R120, R121: LDA copies the cell into AC; STA copies AC into the cell. -/
def Obligations.LdaAndStaMoveWholeCells : Prop :=
  ∀ (a : Addr) (s : State),
    (encode (.lda a)).toNat = a.toNat ∧
    exec (.lda a) s = .next { s with ar := a, dr := s.cell a, ac := s.cell a } ∧
    (encode (.sta a)).toNat = 128 + a.toNat ∧
    ∃ m, exec (.sta a) s = .next { s with ar := a, dr := s.ac, mem := m } ∧ Stores s.mem m a s.ac

/-- R122, R123: ADD and SUB commit the exact signed result when it fits, and otherwise raise Overflow leaving AC. -/
def Obligations.AddAndSubCommitOrOverflow : Prop :=
  ∀ (a : Addr) (s : State),
    (encode (.add a)).toNat = 256 + a.toNat ∧
    (Fits13 (s.ac.toInt + (s.cell a).toInt) →
      ∃ v : Word, exec (.add a) s = .next { s with ar := a, dr := s.cell a, ac := v } ∧
        v.toInt = s.ac.toInt + (s.cell a).toInt) ∧
    (¬ Fits13 (s.ac.toInt + (s.cell a).toInt) →
      ∃ e, exec (.add a) s = .fault (.overflow { s with ar := a, dr := s.cell a, lastEnd := e })) ∧
    (encode (.sub a)).toNat = 384 + a.toNat ∧
    (Fits13 (s.ac.toInt - (s.cell a).toInt) →
      ∃ v : Word, exec (.sub a) s = .next { s with ar := a, dr := s.cell a, ac := v } ∧
        v.toInt = s.ac.toInt - (s.cell a).toInt) ∧
    (¬ Fits13 (s.ac.toInt - (s.cell a).toInt) →
      ∃ e, exec (.sub a) s = .fault (.overflow { s with ar := a, dr := s.cell a, lastEnd := e }))

/-- R124: a checked instruction commits its exact signed result when that lies in [-4096, 4095]; exactly when it falls
outside, the instruction fails with Overflow and AC is unchanged; no other instruction raises Overflow (R261). -/
def Obligations.CheckedArithmeticLaw : Prop :=
  ∀ (i : Instr) (s : State),
    (∀ r, exactResult i s = some r → -4096 ≤ r → r ≤ 4095 →
      ∃ t, exec i s = .next t ∧ t.ac.toInt = r ∧ t.ac = BitVec.ofInt 13 r) ∧
    (∀ t, exec i s = .fault (.overflow t) → t.ac = s.ac) ∧
    ((∃ t, exec i s = .fault (.overflow t)) ↔ ∃ r, exactResult i s = some r ∧ (r < -4096 ∨ 4095 < r))

/-! ### Jumps (42) -/

/-- R130 to R137: each jump is taken exactly under its condition on the signed accumulator; not taken, nothing but the
operand fetch happens. -/
def Obligations.JumpsFollowTheirCondition : Prop :=
  ∀ (a : Addr) (s : State),
    let go (taken : Prop) [Decidable taken] : Host.Outcome State Fault Refusal :=
      .next { s with ar := a, dr := s.cell a, pc := if taken then a else s.pc }
    ((encode (.jmp a)).toNat = 512 + a.toNat ∧ exec (.jmp a) s = go True) ∧
    ((encode (.jms a)).toNat = 640 + a.toNat ∧ exec (.jms a) s = go (s.ac.toInt < 0)) ∧
    ((encode (.jpl a)).toNat = 1024 + a.toNat ∧ exec (.jpl a) s = go (0 < s.ac.toInt)) ∧
    ((encode (.jze a)).toNat = 1152 + a.toNat ∧ exec (.jze a) s = go (s.ac.toInt = 0)) ∧
    ((encode (.jnm a)).toNat = 3200 + a.toNat ∧ exec (.jnm a) s = go (0 ≤ s.ac.toInt)) ∧
    ((encode (.jnp a)).toNat = 3328 + a.toNat ∧ exec (.jnp a) s = go (s.ac.toInt ≤ 0)) ∧
    ((encode (.jnz a)).toNat = 2560 + a.toNat ∧ exec (.jnz a) s = go (s.ac.toInt ≠ 0)) ∧
    (s.ac.getLsbD 12 = true ↔ s.ac.toInt < 0) ∧ (s.ac = 0 ↔ s.ac.toInt = 0)

/-! ### Subroutines and the stack (43) -/

/-- R140: JSR stores the return address (the incremented PC) at the old SP, records it, decrements SP and jumps. -/
def Obligations.JsrPushesTheReturnAddress : Prop :=
  ∀ (a : Addr) (s : State), (encode (.jsr a)).toNat = 768 + a.toNat ∧
    ∃ m rs, exec (.jsr a) s = .next { s with
        ar := s.sp, dr := s.pc.setWidth 13, mem := m, raSet := rs, sp := s.sp - 1, pc := a } ∧
      Stores s.mem m s.sp (s.pc.setWidth 13) ∧
      ∀ b, AddrSet.has rs b = true ↔ b = s.sp ∨ AddrSet.has s.raSet b = true

/-- R141: RTN increments SP, reads the cell there, drops it from the return-address set whether or not it is in it, and
jumps to the cell's low 7 bits; memory is not changed. -/
def Obligations.RtnPopsIntoPc : Prop :=
  ∀ (imm : Addr) (s : State), (encode (.rtn 0)).toNat = 896 ∧
    ∃ rs, exec (.rtn imm) s = .next { s with
        sp := s.sp + 1, ar := s.sp + 1, dr := s.cell (s.sp + 1), raSet := rs
        pc := (s.cell (s.sp + 1)).setWidth 7 } ∧
      ∀ b, AddrSet.has rs b = true ↔ b ≠ s.sp + 1 ∧ AddrSet.has s.raSet b = true

/-- R142, R143: PSH stores AC at the old SP and decrements SP; POP increments SP and loads AC from there. -/
def Obligations.PshAndPopMoveAc : Prop :=
  ∀ (imm : Addr) (s : State),
    (encode (.psh 0)).toNat = 1536 ∧
    (∃ m, exec (.psh imm) s = .next { s with ar := s.sp, dr := s.ac, mem := m, sp := s.sp - 1 } ∧
      Stores s.mem m s.sp s.ac) ∧
    (encode (.pop 0)).toNat = 1664 ∧
    exec (.pop imm) s = .next { s with
      sp := s.sp + 1, ar := s.sp + 1, dr := s.cell (s.sp + 1), ac := s.cell (s.sp + 1) }

/-- R144, R145 with the micro-order the spec chose (D8): PSHM pushes the cell at `a`, POPM pops into it. IR after POPM is
one of the two values R146 and U3 leave open (log 9), and the model's count of draws is not constrained. -/
def Obligations.PshmAndPopmMoveACell : Prop :=
  ∀ (a : Addr) (s : State),
    (∃ m, exec (.pshm a) s = .next { s with ar := s.sp, dr := s.cell a, mem := m, sp := s.sp - 1 } ∧
      Stores s.mem m s.sp (s.cell a)) ∧
    (∃ m w n, exec (.popm a) s = .next { s with
        sp := s.sp + 1, ar := a, dr := s.cell (s.sp + 1), mem := m, ir := w, draws := n } ∧
      Stores s.mem m a (s.cell (s.sp + 1)) ∧ (w = s.ir ∨ w = a.setWidth 13))

/-- A push of AC and the next pop give SP and AC back, and change no cell but the pushed one (R142, R143). -/
def Obligations.PushThenPopRestores : Prop :=
  ∀ (i j : Addr) (s : State), ∃ t u, exec (.psh i) s = .next t ∧ exec (.pop j) t = .next u ∧
    u.sp = s.sp ∧ u.ac = s.ac ∧ u.bp = s.bp ∧ u.pc = s.pc ∧ Stores s.mem u.mem s.sp s.ac

/-- A call, a body that leaves SP and the return cell alone, and a return: control is back after the call with SP
restored, and the return cell is no longer recorded (R140, R141). -/
def Obligations.CallThenReturnComesBack : Prop :=
  ∀ (a j : Addr) (s t b : State), exec (.jsr a) s = .next t →
    b.sp = t.sp → b.cell s.sp = t.cell s.sp →
    ∃ u, exec (.rtn j) b = .next u ∧ u.pc = s.pc ∧ u.sp = s.sp ∧ AddrSet.has u.raSet s.sp = false

/-! ### Accumulator operations (44) -/

/-- R150, R151: NOP changes nothing but the scratch registers; NEG negates mod 2^13, keeps -4096 and 0, never faults, and
twice restores every value. -/
def Obligations.NopAndNegNeverFault : Prop :=
  ∀ (imm : Addr) (s : State),
    (encode (.nop 0)).toNat = 2048 ∧
    exec (.nop imm) s = .next { s with ar := imm, dr := s.cell imm } ∧
    (encode (.neg 0)).toNat = 2176 ∧
    ∃ v : Word, exec (.neg imm) s = .next { s with ar := imm, dr := s.cell imm, ac := v } ∧
      v.toNat = (8192 - s.ac.toNat) % 8192 ∧
      (s.ac.toInt = -4096 → v = s.ac) ∧ (s.ac.toInt ≠ -4096 → v.toInt = -s.ac.toInt) ∧
      exec (.neg imm) { s with ac := v } = .next { s with ar := imm, dr := s.cell imm }

/-- R152, R153: INC and DEC step the signed accumulator, and fault exactly at 4095 and at -4096 (raw 4096). -/
def Obligations.IncAndDecStepTheAccumulator : Prop :=
  ∀ (imm : Addr) (s : State),
    (encode (.inc 0)).toNat = 2304 ∧
    (s.ac.toNat ≠ 4095 → ∃ v : Word, exec (.inc imm) s = .next { s with ar := imm, dr := s.cell imm, ac := v } ∧
      v.toInt = s.ac.toInt + 1) ∧
    (s.ac.toNat = 4095 → ∃ e, exec (.inc imm) s =
      .fault (.overflow { s with ar := imm, dr := s.cell imm, lastEnd := e })) ∧
    (encode (.dec 0)).toNat = 2432 ∧
    (s.ac.toNat ≠ 4096 → ∃ v : Word, exec (.dec imm) s = .next { s with ar := imm, dr := s.cell imm, ac := v } ∧
      v.toInt = s.ac.toInt - 1) ∧
    (s.ac.toNat = 4096 → ∃ e, exec (.dec imm) s =
      .fault (.overflow { s with ar := imm, dr := s.cell imm, lastEnd := e }))

/-! ### Output, input, halt (45) -/

/-- R160, R162: OUT appends the signed value of the cell to the output, a list that D12 makes the machine's observable
output and the model holds in State (log 6); END clears the running flag and nothing else but the scratch
registers (and the model's lastEnd, log 7, which the statement leaves open). -/
def Obligations.OutShowsAndEndHalts : Prop :=
  ∀ (a : Addr) (s : State),
    (encode (.out a)).toNat = 1280 + a.toNat ∧
    exec (.out a) s = .next { s with ar := a, dr := s.cell a, output := s.output ++ [(s.cell a).toInt] } ∧
    -4096 ≤ (s.cell a).toInt ∧ (s.cell a).toInt ≤ 4095 ∧
    (encode (.endd 0)).toNat = 1408 ∧
    ∃ e, exec (.endd a) s = .next { s with ar := a, dr := s.cell a, running := false, lastEnd := e }

/-- R161, with the spec's own masking of an input of any size (D11): INM stores the next input reduced mod 2^13 and
consumes it; without input it clears the running flag, stores nothing and does not fault. -/
def Obligations.InmReadsOrHalts : Prop :=
  ∀ (a : Addr) (s : State),
    (∀ v rest, s.input = v :: rest → ∃ m w, exec (.inm a) s =
        .next { s with ar := a, dr := w, mem := m, input := rest } ∧
      Stores s.mem m a w ∧ (w.toNat : Int) = v % 8192) ∧
    (s.input = [] → ∃ e, exec (.inm a) s =
      .next { s with ar := a, dr := s.cell a, running := false, lastEnd := e })

/-! ### SP- and BP-relative forms (46, 48) -/

/-- R171, R175 with the micro-order the spec chose (D8): LDAS and LDAB load from `base + x`. -/
def Obligations.RelativeLoadsReadBasePlusOffset : Prop :=
  ∀ (x : Addr) (s : State),
    (s.sp.toNat + x.toNat ≤ 127 → exec (.ldas x) s =
      .next { s with ar := s.sp + x, dr := s.cell (s.sp + x), ac := s.cell (s.sp + x) } ∧
      (s.sp + x).toNat = s.sp.toNat + x.toNat) ∧
    (s.bp.toNat + x.toNat ≤ 127 → exec (.ldab x) s =
      .next { s with ar := s.bp + x, dr := s.cell (s.bp + x), ac := s.cell (s.bp + x) } ∧
      (s.bp + x).toNat = s.bp.toNat + x.toNat)

/-- R172, R176 with the micro-order the spec chose (D8): STAS and STAB store AC at `base + x`. -/
def Obligations.RelativeStoresWriteBasePlusOffset : Prop :=
  ∀ (x : Addr) (s : State),
    (s.sp.toNat + x.toNat ≤ 127 → ∃ m, exec (.stas x) s =
      .next { s with ar := s.sp + x, dr := s.ac, mem := m } ∧ Stores s.mem m (s.sp + x) s.ac) ∧
    (s.bp.toNat + x.toNat ≤ 127 → ∃ m, exec (.stab x) s =
      .next { s with ar := s.bp + x, dr := s.ac, mem := m } ∧ Stores s.mem m (s.bp + x) s.ac)

/-- R173, R174, R177, R178 with the micro-order the spec chose (D8): the relative sums and differences commit when they
fit. -/
def Obligations.RelativeArithmeticCommits : Prop :=
  ∀ (x : Addr) (s : State),
    (s.sp.toNat + x.toNat ≤ 127 → Fits13 (s.ac.toInt + (s.cell (s.sp + x)).toInt) →
      ∃ v : Word, exec (.adds x) s = .next { s with ar := s.sp + x, dr := s.cell (s.sp + x), ac := v } ∧
        v.toInt = s.ac.toInt + (s.cell (s.sp + x)).toInt) ∧
    (s.sp.toNat + x.toNat ≤ 127 → Fits13 (s.ac.toInt - (s.cell (s.sp + x)).toInt) →
      ∃ v : Word, exec (.subs x) s = .next { s with ar := s.sp + x, dr := s.cell (s.sp + x), ac := v } ∧
        v.toInt = s.ac.toInt - (s.cell (s.sp + x)).toInt) ∧
    (s.bp.toNat + x.toNat ≤ 127 → Fits13 (s.ac.toInt + (s.cell (s.bp + x)).toInt) →
      ∃ v : Word, exec (.addb x) s = .next { s with ar := s.bp + x, dr := s.cell (s.bp + x), ac := v } ∧
        v.toInt = s.ac.toInt + (s.cell (s.bp + x)).toInt) ∧
    (s.bp.toNat + x.toNat ≤ 127 → Fits13 (s.ac.toInt - (s.cell (s.bp + x)).toInt) →
      ∃ v : Word, exec (.subb x) s = .next { s with ar := s.bp + x, dr := s.cell (s.bp + x), ac := v } ∧
        v.toInt = s.ac.toInt - (s.cell (s.bp + x)).toInt)

/-- R262: a cycle's instruction raises InvalidAddress exactly when it is one of the twelve relative ones and
`base + x > 127` (for INS and INB whether or not there is input: the order the spec chose, D11, D24), with `AR = x` and
`DR = Mem[x]` (R170) and everything else as before (lastEnd is the model's, log 7). -/
def Obligations.InvalidAddressExactlyPastTheTop : Prop :=
  ∀ (i : Instr) (s t : State), exec i s = .fault (.invalidAddress t) ↔
    ∃ x, ((i ∈ [.ldas x, .stas x, .adds x, .subs x, .outs x, .ins x] ∧ 127 < s.sp.toNat + x.toNat) ∨
        (i ∈ [.ldab x, .stab x, .addb x, .subb x, .outb x, .inb x] ∧ 127 < s.bp.toNat + x.toNat)) ∧
      t = { s with ar := x, dr := s.cell x, lastEnd := .faulted }

/-- R263, with the order of the address check the spec chose (D11): NoInputValue is raised exactly by INS and INB on an
existing address with no input left. -/
def Obligations.NoInputValueExactlyInInsAndInb : Prop :=
  ∀ (i : Instr) (s : State), (∃ t, exec i s = .fault (.noInputValue t)) ↔
    s.input = [] ∧ ∃ x, (i = .ins x ∧ s.sp.toNat + x.toNat ≤ 127) ∨ (i = .inb x ∧ s.bp.toNat + x.toNat ≤ 127)

/-- R200, R201 with the micro-order the spec chose (D8) and the output as a list (D12, log 6): OUTS and OUTB
show the signed cell at `base + x`. -/
def Obligations.RelativeOutputsShowBasePlusOffset : Prop :=
  ∀ (x : Addr) (s : State),
    (s.sp.toNat + x.toNat ≤ 127 → exec (.outs x) s = .next { s with
      ar := s.sp + x, dr := s.cell (s.sp + x), output := s.output ++ [(s.cell (s.sp + x)).toInt] }) ∧
    (s.bp.toNat + x.toNat ≤ 127 → exec (.outb x) s = .next { s with
      ar := s.bp + x, dr := s.cell (s.bp + x), output := s.output ++ [(s.cell (s.bp + x)).toInt] })

/-- R202, R203 with the spec's own masking and order of checks (D8, D11): INS and INB store the next input, reduced mod
2^13, at `base + x`, and consume it. -/
def Obligations.RelativeInputsStoreTheNextValue : Prop :=
  ∀ (x : Addr) (s : State) (v : Int) (rest : List Int), s.input = v :: rest →
    (s.sp.toNat + x.toNat ≤ 127 → ∃ m w, exec (.ins x) s = .next { s with
        ar := s.sp + x, dr := w, mem := m, input := rest } ∧
      Stores s.mem m (s.sp + x) w ∧ (w.toNat : Int) = v % 8192) ∧
    (s.bp.toNat + x.toNat ≤ 127 → ∃ m w, exec (.inb x) s = .next { s with
        ar := s.bp + x, dr := w, mem := m, input := rest } ∧
      Stores s.mem m (s.bp + x) w ∧ (w.toNat : Int) = v % 8192)

/-! ### Pointers (47) -/

/-- R190, R191: SPBP copies SP into BP, BPSP copies BP into SP. -/
def Obligations.PointerMovesCopy : Prop :=
  ∀ (imm : Addr) (s : State),
    (encode (.spbp 0)).toNat = 4992 ∧
    exec (.spbp imm) s = .next { s with ar := imm, dr := s.cell imm, bp := s.sp } ∧
    (encode (.bpsp 0)).toNat = 4864 ∧
    exec (.bpsp imm) s = .next { s with ar := imm, dr := s.cell imm, sp := s.bp }

/-- R192, R193 with the micro-order the spec chose (D8): PSHB pushes BP zero-extended, POPB pops its low 7 bits. -/
def Obligations.PshbAndPopbMoveBp : Prop :=
  ∀ (imm : Addr) (s : State),
    (∃ m, exec (.pshb imm) s = .next { s with ar := s.sp, dr := s.bp.setWidth 13, mem := m, sp := s.sp - 1 } ∧
      Stores s.mem m s.sp (s.bp.setWidth 13)) ∧
    exec (.popb imm) s = .next { s with
      sp := s.sp + 1, ar := s.sp + 1, dr := s.cell (s.sp + 1), bp := (s.cell (s.sp + 1)).setWidth 7 }

/-! ### Data words (40) -/

/-- R105: executing a data word, of either table row, changes nothing but the scratch registers. -/
def Obligations.DataWordsDoNothing : Prop :=
  ∀ (opc : Opcode) (imm : Addr) (s : State),
    exec (.defLow opc imm) s = .next { s with ar := imm, dr := s.cell imm } ∧
    exec (.defHigh opc imm) s = .next { s with ar := imm, dr := s.cell imm }

/-- R74: a store to the cell PC names is what the very next cycle fetches and runs. -/
def Obligations.StoredWordIsFetchedNext : Prop :=
  ∀ s : State, ∃ t, exec (.sta s.pc) s = .next t ∧ t.fetch.ir = s.ac ∧ t.fetch.pc = s.pc + 1

/-! ### Reset and host operations (70) -/

/-- What a reset leaves, for any `RESET_SP` and `RESET_BP` (R290; the register values, the running flag and what is kept
are the spec's own decisions D2, D3, D4, log 2 to 6): every cell 0, the five registers 0, not running, no return
address recorded; breakpoints, input and output as they were. -/
def Obligations.ResetLeavesTheResetState : Prop :=
  ∀ (s : State) (sp bp : Addr), ∃ t, hostStep (.reset sp bp) s = .ok t ∧
    (∀ b, Memory.read t.mem b = 0) ∧ t.ir = 0 ∧ t.dr = 0 ∧ t.ac = 0 ∧ t.ar = 0 ∧ t.pc = 0 ∧ t.sp = sp ∧ t.bp = bp ∧
    t.running = false ∧ (∀ b, AddrSet.has t.raSet b = false) ∧ t.breakpoints = s.breakpoints ∧ t.input = s.input ∧
    t.output = s.output ∧ t.status = some .idle

/-- "calling `reset()` twice in a row yields identical state to calling it once" (R290). -/
def Obligations.ResetTwiceIsResetOnce : Prop :=
  ∀ (s : State) (sp bp : Addr), ∃ t, hostStep (.reset sp bp) s = .ok t ∧ hostStep (.reset sp bp) t = .ok t

/-- The state after reset is in canonical form. -/
def Obligations.ResetStateIsCanonical : Prop := State.reset.Inv

/-- Every cycle keeps the canonical form, from every state that has it, whether it completes or faults: the memory
stays a rising list of cells below 128 (R60, R63), both address sets stay sets, every value shown is 13-bit signed. -/
def Obligations.StepKeepsCanonicalForm : Prop :=
  ∀ s : State, s.Inv → (∀ t, step s = .next t → t.Inv) ∧ (∀ f, step s = .fault f → (faultState f).Inv)

/-- Every host operation keeps the canonical form: no load and no direct write can leave it (R76, R241, R297). -/
def Obligations.HostOperationsKeepCanonicalForm : Prop :=
  ∀ (op : HostOp) (s t : State), s.Inv → hostStep op s = .ok t → t.Inv

/-- R109, R110: a run of n + m cycles is a run of n cycles and, if that did not fault, a run of m more from where it
stopped; a machine that is not running stays where it is. -/
def Obligations.RunsCompose : Prop :=
  ∀ (n m : Nat) (s : State),
    (∀ t, runLoop n s = .next t → runLoop (n + m) s = runLoop m t) ∧
    (∀ f, runLoop n s = .fault f → runLoop (n + m) s = .fault f) ∧
    (s.running = false → runLoop n s = .next s)

/-! ### Register primitives (10) -/

/-- R29: the derived quantities of a register of width b: the two's-complement reading, the sign bit, bit 0, the signed
range. -/
def Obligations.DerivedQuantities : Prop :=
  ∀ (b : Nat) (r : BitVec b), 0 < b →
    Reg.signedValue r = (if r.toNat < 2 ^ (b - 1) then (r.toNat : Int) else r.toNat - 2 ^ b) ∧
    (Reg.leftmost r = true ↔ 2 ^ (b - 1) ≤ r.toNat) ∧ (Reg.rightmost r = true ↔ r.toNat % 2 = 1) ∧
    Reg.maxSigned b = 2 ^ (b - 1) - 1 ∧ Reg.minSigned b = -2 ^ (b - 1) ∧
    Reg.maxSigned 13 = 4095 ∧ Reg.minSigned 13 = -4096 ∧ Reg.maxSigned 7 = 63 ∧ Reg.minSigned 7 = -64

/-- R30, R31, R32: a transfer keeps the number modulo the destination's width (a wider one keeps it whole), inc and dec
step modulo 2^b, neg negates modulo 2^b and keeps the least value and 0. -/
def Obligations.TransfersAndStepsWrap : Prop :=
  ∀ (b v : Nat) (r : BitVec b),
    (Reg.to v r).toNat = r.toNat % 2 ^ v ∧ (b ≤ v → (Reg.to v r).toNat = r.toNat) ∧
    (Reg.inc r).toNat = (r.toNat + 1) % 2 ^ b ∧ ((Reg.dec r).toNat : Int) = ((r.toNat : Int) - 1) % 2 ^ b ∧
    (Reg.neg r).toNat = (2 ^ b - r.toNat) % 2 ^ b ∧
    (0 < b → r.toNat = 2 ^ (b - 1) → Reg.neg r = r) ∧ (r.toNat = 0 → Reg.neg r = r)

/-- R34, with the logical right shift the spec chose (D22): every operator gives its result masked to the width. -/
def Obligations.OperatorsMask : Prop :=
  ∀ (b : Nat) (r : BitVec b) (k : Int),
    ((Reg.apply .plus r k).toNat : Int) = (r.toNat + k) % 2 ^ b ∧
    ((Reg.apply .minus r k).toNat : Int) = (r.toNat - k) % 2 ^ b ∧
    (∀ j, (Reg.apply .and r k).getLsbD j = (r.getLsbD j && (Reg.set b k).getLsbD j)) ∧
    (∀ j, (Reg.apply .or r k).getLsbD j = (r.getLsbD j || (Reg.set b k).getLsbD j)) ∧
    (∀ j, (Reg.apply .xor r k).getLsbD j = (r.getLsbD j ^^ (Reg.set b k).getLsbD j)) ∧
    ∀ n : Nat, (Reg.apply .shiftLeft r n).toNat = r.toNat * 2 ^ n % 2 ^ b ∧
      (Reg.apply .shiftRight r n).toNat = r.toNat / 2 ^ n

/-- R28: `set` reduces mod 2^b, the signed reading lies in the signed range, and setting it again changes nothing. -/
def Obligations.SetMasksAndIsStable : Prop :=
  ∀ (b : Nat) (v : Int), 0 < b →
    ((Reg.set b v).toNat : Int) = v % 2 ^ b ∧
    Reg.set b (Reg.signedValue (Reg.set b v)) = Reg.set b v ∧
    Reg.signedValue (Reg.set b v) = Int.bmod v (2 ^ b) ∧
    Reg.minSigned b ≤ Reg.signedValue (Reg.set b v) ∧ Reg.signedValue (Reg.set b v) ≤ Reg.maxSigned b

/-- R33: `will_overflow` is true exactly when the candidate falls outside the signed range; for AC, below -4096 or above
4095; and a candidate it passes is what the register then reads as. -/
def Obligations.WillOverflowIffOutOfRange : Prop :=
  ∀ (b : Nat) (c : Int), 0 < b →
    (Reg.willOverflow b c = true ↔ c < -2 ^ (b - 1) ∨ 2 ^ (b - 1) - 1 < c) ∧
    (Reg.willOverflow 13 c = true ↔ c < -4096 ∨ 4095 < c) ∧
    (Reg.willOverflow b c = false → Reg.signedValue (Reg.set b c) = c)

/-! ### Assembler and loader (30, 49) -/

/-- R90, R246: the text `OP n` of an argument-taking mnemonic packs to the word whose opcode is OP's and whose immediate
is n; R89: the name of that word is OP again. The twelve mnemonics without an argument pack with immediate 0 (R91). -/
def Obligations.ParsedCommandsDecodeToTheirMnemonic : Prop :=
  ∀ (opc : Nat) (h : opc < tableMnemonics.length) (n : Nat), n ≤ 127 →
    (noArgumentOpcodes.contains opc = false →
      ∃ w, parseCommand (tableMnemonics[opc].toList ++ ' ' :: showNat n) = .ok w ∧
        (decode w).opcode.toNat = opc ∧ (decode w).imm.toNat = n ∧ commandName w = tableMnemonics[opc]) ∧
    (noArgumentOpcodes.contains opc = true →
      ∃ w, parseCommand tableMnemonics[opc].toList = .ok w ∧
        (decode w).opcode.toNat = opc ∧ (decode w).imm = 0 ∧ commandName w = tableMnemonics[opc])

/-- R244, `clear=false`: only the named cells change; registers, PC included, the running flag and all other cells keep
their values, and the words written are those of the lines. -/
def Obligations.PatchLoadKeepsTheRest : Prop :=
  ∀ (s t : State) (sp bp : Addr) (lines : List Text), s.load sp bp lines false = .ok t →
    ∃ words, parseLoad 1 lines = .ok words ∧ (∀ e ∈ words, e.1 ≤ 127) ∧
      t = { s with mem := t.mem, lastEnd := .notRun } ∧
      (∀ b, (∀ e ∈ words, e.1 ≠ b) → Memory.read t.mem b = Memory.read s.mem b) ∧
      (∀ pre post a w, words = pre ++ (a, w) :: post → (∀ e ∈ post, e.1 ≠ a) → Memory.read t.mem a = w)

/-- R230: the assembled lines are numbered 0, 1, 2, ... in order, and an argument is there exactly when the mnemonic
takes one. -/
def Obligations.AssembledLinesAreNumberedFromZero : Prop :=
  ∀ (source : List Text) (ls : List AsmLine), assembleLines source = .ok ls →
    ls.map AsmLine.number = List.range ls.length ∧ ∀ l ∈ ls, l.arg.isSome = l.op.takesArgument

/-- R213: no label is bound twice, whatever the source. -/
def Obligations.LabelsAreBoundOnce : Prop :=
  ∀ (source : List Text) (st : AsmState),
    passOne (tokenize source) .classify { pending := [], labels := [], recorded := [], counter := 0 } = .ok st →
    (st.labels.map Prod.fst).Nodup ∧ st.recorded.map AsmInstr.number = List.range st.counter

/-- R232 (a): assembling assembled text gives the same text. -/
def Obligations.AssemblingAssembledTextIsIdentity : Prop :=
  ∀ (source out : List Text), assemble source = .ok out → assemble out = .ok out

/-! ### The ends of a run (40) -/

/-- R110, the breakpoint as D7 reads it: a cycle of a running machine that completes ends the run exactly when it leaves
the flag 0, and the end is one of four: END, INM without input, a breakpoint after an instruction that left the flag
set, a fault. A flag the host clears by a pause is no end: start and pause with no cycle between end no run (that the
host's start forgets the last end is the model's, log 7). -/
def Obligations.RunEndsInFourWays : Prop :=
  ∀ s : State,
    (s.running = true →
      (∀ t, step s = .next t → (t.ended = true ↔ t.running = false)) ∧
      (runEnd (step s) = some .haltedByEnd ↔ ∃ a, decode (s.cell s.pc) = .endd a) ∧
      (runEnd (step s) = some .haltedByInm ↔ (∃ a, decode (s.cell s.pc) = .inm a) ∧ s.input = []) ∧
      (runEnd (step s) = some .breakpoint ↔ ∃ u, exec (decode (s.cell s.pc)) s.fetch = .next u ∧
        u.running = true ∧ AddrSet.has u.breakpoints u.pc = true) ∧
      (runEnd (step s) = some .faulted ↔ ∃ f, step s = .fault f)) ∧
    ∃ t u, hostStep .start s = .ok t ∧ hostStep .pause t = .ok u ∧ u.running = false ∧ u.ended = false
end

