-- ==== Sys2Proof/Laws/Alu.lean ====
section
/-! SUPPORT. The overflow check and the commit of an exact result, for the 13-bit accumulator. -/

namespace Sys2Proof.Machine

/-- The check fails a candidate exactly outside [-4096, 4095]. -/
theorem willOverflow_13 (r : Int) : Reg.willOverflow 13 r = true ↔ r < -4096 ∨ 4095 < r := by
  unfold Reg.willOverflow
  rw [Bool.or_eq_true, decide_eq_true_eq, decide_eq_true_eq]
  exact Iff.rfl

/-- The check passes a candidate exactly in [-4096, 4095]. -/
theorem willOverflow_13_false (r : Int) : Reg.willOverflow 13 r = false ↔ -4096 ≤ r ∧ r ≤ 4095 := by
  rw [← Bool.not_eq_true, willOverflow_13]
  omega

/-- A candidate in range is what the register reads as once it is set. -/
theorem toInt_set_13 {r : Int} (h : -4096 ≤ r ∧ r ≤ 4095) : (Reg.set 13 r).toInt = r := by
  unfold Reg.set
  rw [BitVec.toInt_ofInt, Int.bmod_eq_of_le] <;> omega

end Sys2Proof.Machine
end

