-- ==== Sys2Proof/Laws/Memory.lean ====
section
/-! SUPPORT. The laws of memory and of sets of addresses: a read after a write, every other place left alone, and the
canonical form kept by every operation. -/

namespace Sys2Proof.Machine

/-! ### Memory -/

theorem Memory.read_dropCell (m : Memory) (a b : Nat) :
    Memory.read (Memory.dropCell m a) b = if b = a then Config.memFill else Memory.read m b := by
  induction m with
  | nil => simp [Memory.dropCell, Memory.read]
  | cons e rest ih =>
    obtain ⟨k, v⟩ := e
    by_cases h : k = a
    · simp only [Memory.dropCell, h, if_true, ih]
      by_cases hb : b = a
      · simp [hb]
      · simp [Memory.read, hb, Ne.symm hb]
    · simp only [Memory.dropCell, h, if_false, Memory.read, ih]
      by_cases hk : k = b
      · have : b ≠ a := fun hb => h (hk.trans hb)
        simp [hk, this]
      · simp [hk]

theorem Memory.read_putCell (m : Memory) (a b : Nat) (v : Word) (h : ∀ e ∈ m, e.1 ≠ a) :
    Memory.read (Memory.putCell m a v) b = if b = a then v else Memory.read m b := by
  induction m with
  | nil => simp only [Memory.putCell, Memory.read, eq_comm]
  | cons e rest ih =>
    obtain ⟨k, x⟩ := e
    have hk : k ≠ a := h (k, x) (by simp)
    have hr := ih fun e he => h e (by simp [he])
    by_cases hlt : a < k
    · by_cases hb : b = a
      · simp [Memory.putCell, hlt, Memory.read, hb]
      · simp [Memory.putCell, hlt, Memory.read, hb, Ne.symm hb]
    · simp only [Memory.putCell, hlt, if_false, Memory.read, hr]
      by_cases hkb : k = b
      · have : b ≠ a := fun hb => hk (hkb.trans hb)
        simp [hkb, this]
      · simp [hkb]

theorem Memory.dropCell_absent (m : Memory) (a : Nat) : ∀ e ∈ Memory.dropCell m a, e.1 ≠ a := by
  induction m with
  | nil => simp [Memory.dropCell]
  | cons e rest ih =>
    obtain ⟨k, v⟩ := e
    by_cases h : k = a
    · simpa [Memory.dropCell, h] using ih
    · intro e he
      simp only [Memory.dropCell, h, if_false, List.mem_cons] at he
      rcases he with rfl | he
      · exact h
      · exact ih e he

/-- A read after a write: the written cell holds the value written, every other cell what it held (R65). -/
theorem Memory.read_write (m : Memory) (a b : Nat) (v : Word) :
    Memory.read (Memory.write m a v) b = if b = a then v else Memory.read m b := by
  unfold Memory.write
  split
  · next h => rw [Memory.read_dropCell, h]
  · rw [Memory.read_putCell _ _ _ _ (Memory.dropCell_absent m a), Memory.read_dropCell]
    by_cases hb : b = a <;> simp [hb]

/-- A lower bound below another admits every list the other does. -/
theorem Memory.wfAbove_weaken {l l' : Nat} {m : Memory} (hl : l' ≤ l) (h : Memory.wfAbove (some l) m = true) :
    Memory.wfAbove (some l') m = true := by
  cases m with
  | nil => rfl
  | cons e rest =>
    obtain ⟨k, v⟩ := e
    simp only [Memory.wfAbove, Bool.and_eq_true, decide_eq_true_eq] at h ⊢
    exact ⟨⟨⟨lt_of_le_of_lt hl h.1.1.1, h.1.1.2⟩, h.1.2⟩, h.2⟩

theorem Memory.wfAbove_none {l : Nat} {m : Memory} (h : Memory.wfAbove (some l) m = true) :
    Memory.wfAbove none m = true := by
  cases m with
  | nil => rfl
  | cons e rest =>
    obtain ⟨k, v⟩ := e
    simp only [Memory.wfAbove, Bool.and_eq_true, decide_eq_true_eq] at h ⊢
    exact ⟨⟨⟨trivial, h.1.1.2⟩, h.1.2⟩, h.2⟩

theorem Memory.wfAbove_dropCell {m : Memory} (a : Nat) :
    ∀ {low : Option Nat}, Memory.wfAbove low m = true → Memory.wfAbove low (Memory.dropCell m a) = true := by
  induction m with
  | nil => intro low _; cases low <;> rfl
  | cons e rest ih =>
    obtain ⟨k, v⟩ := e
    intro low h
    have h' := h
    simp only [Memory.wfAbove, Bool.and_eq_true, decide_eq_true_eq] at h
    by_cases hk : k = a
    · simp only [Memory.dropCell, hk, if_true]
      cases low with
      | none => exact Memory.wfAbove_none (hk ▸ ih h.2)
      | some l =>
        exact ih (Memory.wfAbove_weaken (le_of_lt (by simpa using h.1.1.1)) h.2)
    · simp only [Memory.dropCell, hk, if_false, Memory.wfAbove, Bool.and_eq_true, decide_eq_true_eq]
      exact ⟨h.1, ih h.2⟩

theorem Memory.wfAbove_putCell {m : Memory} {a : Nat} {v : Word} (ha : a < Config.memCells)
    (hv : v ≠ Config.memFill) :
    ∀ {low : Option Nat}, (∀ l, low = some l → l < a) → (∀ e ∈ m, e.1 ≠ a) → Memory.wfAbove low m = true →
      Memory.wfAbove low (Memory.putCell m a v) = true := by
  induction m with
  | nil =>
    intro low hl _ _
    cases low <;> simp_all [Memory.putCell, Memory.wfAbove]
  | cons e rest ih =>
    obtain ⟨k, x⟩ := e
    intro low hl hne h
    have hk : k ≠ a := hne (k, x) (by simp)
    simp only [Memory.wfAbove, Bool.and_eq_true, decide_eq_true_eq] at h
    by_cases hlt : a < k
    · simp only [Memory.putCell, hlt, if_true, Memory.wfAbove, Bool.and_eq_true, decide_eq_true_eq]
      refine ⟨⟨⟨?_, ha⟩, hv⟩, ⟨⟨trivial, h.1.1.2⟩, h.1.2⟩, h.2⟩
      cases low with
      | none => rfl
      | some l => simpa using hl l rfl
    · simp only [Memory.putCell, hlt, if_false, Memory.wfAbove, Bool.and_eq_true, decide_eq_true_eq]
      refine ⟨h.1, ih ?_ (fun e he => hne e (by simp [he])) h.2⟩
      intro l hl'
      cases hl'
      omega

/-- A write to an existing cell keeps the canonical form. -/
theorem Memory.wf_write {m : Memory} {a : Nat} (v : Word) (ha : a < Config.memCells) (h : Memory.wf m = true) :
    Memory.wf (Memory.write m a v) = true := by
  unfold Memory.write
  split
  · exact Memory.wfAbove_dropCell a h
  · next hv =>
    exact Memory.wfAbove_putCell ha hv (by simp) (Memory.dropCell_absent m a) (Memory.wfAbove_dropCell a h)

/-- A write through a 7-bit address keeps the canonical form: the core cannot leave it (R63). -/
theorem Memory.wf_write_addr {m : Memory} (a : Addr) (v : Word) (h : Memory.wf m = true) :
    Memory.wf (Memory.write m a.toNat v) = true :=
  Memory.wf_write v (by have := a.isLt; simp only [Config.memCells]; omega) h

/-! ### Sets of addresses -/

theorem AddrSet.has_add (t : AddrSet) (a b : Addr) :
    AddrSet.has (AddrSet.add t a) b = (decide (a = b) || AddrSet.has t b) := by
  induction t with
  | nil => rfl
  | cons c rest ih =>
    by_cases h : a = c
    · subst h; simp [AddrSet.add, AddrSet.has]
    · by_cases hlt : a.toNat < c.toNat
      · simp [AddrSet.add, h, hlt, AddrSet.has]
      · simp [AddrSet.add, h, hlt, AddrSet.has, ih, Bool.or_left_comm]

theorem AddrSet.has_remove (t : AddrSet) (a b : Addr) :
    AddrSet.has (AddrSet.remove t a) b = (decide (a ≠ b) && AddrSet.has t b) := by
  induction t with
  | nil => simp [AddrSet.remove, AddrSet.has]
  | cons c rest ih =>
    by_cases h : c = a
    · subst h
      by_cases hb : c = b
      · subst hb; simp [AddrSet.remove, ih]
      · simp [AddrSet.remove, AddrSet.has, ih, hb]
    · simp only [AddrSet.remove, h, if_false, AddrSet.has, ih]
      by_cases hb : c = b
      · subst hb; simp [Ne.symm h]
      · simp [hb]

theorem AddrSet.wfAbove_weaken {l l' : Nat} {t : AddrSet} (hl : l' ≤ l) (h : AddrSet.wfAbove (some l) t = true) :
    AddrSet.wfAbove (some l') t = true := by
  cases t with
  | nil => rfl
  | cons b rest =>
    simp only [AddrSet.wfAbove, Bool.and_eq_true, decide_eq_true_eq] at h ⊢
    exact ⟨lt_of_le_of_lt hl h.1, h.2⟩

theorem AddrSet.wfAbove_none {l : Nat} {t : AddrSet} (h : AddrSet.wfAbove (some l) t = true) :
    AddrSet.wfAbove none t = true := by
  cases t with
  | nil => rfl
  | cons b rest =>
    simp only [AddrSet.wfAbove, Bool.and_eq_true, decide_eq_true_eq] at h ⊢
    exact ⟨trivial, h.2⟩

theorem AddrSet.wfAbove_remove {t : AddrSet} (a : Addr) :
    ∀ {low : Option Nat}, AddrSet.wfAbove low t = true → AddrSet.wfAbove low (AddrSet.remove t a) = true := by
  induction t with
  | nil => intro low _; cases low <;> rfl
  | cons b rest ih =>
    intro low h
    simp only [AddrSet.wfAbove, Bool.and_eq_true] at h
    by_cases hb : b = a
    · simp only [AddrSet.remove, hb, if_true]
      cases low with
      | none => exact AddrSet.wfAbove_none (hb ▸ ih h.2)
      | some l => exact ih (AddrSet.wfAbove_weaken (le_of_lt (by simpa using h.1)) h.2)
    · simp only [AddrSet.remove, hb, if_false, AddrSet.wfAbove, Bool.and_eq_true]
      exact ⟨h.1, ih h.2⟩

theorem AddrSet.wfAbove_add {t : AddrSet} {a : Addr} :
    ∀ {low : Option Nat}, (∀ l, low = some l → l < a.toNat) → AddrSet.wfAbove low t = true →
      AddrSet.wfAbove low (AddrSet.add t a) = true := by
  induction t with
  | nil => intro low hl _; cases low <;> simp_all [AddrSet.add, AddrSet.wfAbove]
  | cons b rest ih =>
    intro low hl h
    by_cases hb : a = b
    · simpa [AddrSet.add, hb] using h
    · simp only [AddrSet.wfAbove, Bool.and_eq_true] at h
      have hne : a.toNat ≠ b.toNat := fun e => hb (BitVec.eq_of_toNat_eq e)
      by_cases hlt : a.toNat < b.toNat
      · simp only [AddrSet.add, hb, hlt, if_false, if_true, AddrSet.wfAbove, Bool.and_eq_true, decide_eq_true_eq]
        refine ⟨?_, trivial, h.2⟩
        cases low with
        | none => rfl
        | some l => simpa using hl l rfl
      · simp only [AddrSet.add, hb, hlt, if_false, AddrSet.wfAbove, Bool.and_eq_true]
        refine ⟨h.1, ih ?_ h.2⟩
        intro l hl'
        cases hl'
        omega

/-- Adding an address keeps the canonical form. -/
theorem AddrSet.wf_add {t : AddrSet} (a : Addr) (h : AddrSet.wf t = true) : AddrSet.wf (AddrSet.add t a) = true :=
  AddrSet.wfAbove_add (by simp) h

/-- Removing an address keeps the canonical form. -/
theorem AddrSet.wf_remove {t : AddrSet} (a : Addr) (h : AddrSet.wf t = true) :
    AddrSet.wf (AddrSet.remove t a) = true :=
  AddrSet.wfAbove_remove a h

end Sys2Proof.Machine
end

