-- ==== Sys2Proof/Laws/Loader.lean ====
section
/-! SUPPORT. What the loader's words and writes are, said once: every address it passes is a cell's, its writes keep the
canonical form and leave every cell they do not name alone. -/

namespace Sys2Proof.Machine

theorem addressInRange_iff (a : Int) : addressInRange a = true ↔ 0 ≤ a ∧ a < 128 := by
  unfold addressInRange
  rw [Bool.and_eq_true, decide_eq_true_eq, decide_eq_true_eq]
  exact Iff.rfl

/-- A line the loader accepts names a cell (R241). -/
theorem parseLoadLine_lt {l : Text} {a : Nat} {w : Word} (h : parseLoadLine l = .ok (some (a, w))) : a < 128 := by
  unfold parseLoadLine at h
  split at h
  · simp at h
  · simp at h
  · split at h
    · simp at h
    · split at h
      · simp at h
      · next n _ =>
        split at h
        · next hr =>
          split at h
          · simp at h
          · simp only [Except.ok.injEq, Option.some.injEq, Prod.mk.injEq] at h
            have := (addressInRange_iff n).1 hr
            omega
        · simp at h

/-- Every word of an accepted load goes to a cell (R241). -/
theorem parseLoad_lt {ls : List Text} : ∀ {n : Nat} {ws : List (Nat × Word)}, parseLoad n ls = .ok ws →
    ∀ e ∈ ws, e.1 < 128 := by
  induction ls with
  | nil =>
    intro n ws h
    cases (Except.ok.inj h : [] = ws)
    simp
  | cons l ls ih =>
    intro n ws h
    unfold parseLoad at h
    split at h
    · simp at h
    · next r hr =>
      split at h
      · simp at h
      · next rest hrest =>
        split at h
        · cases Except.ok.inj h
          exact ih hrest
        · next w =>
          cases Except.ok.inj h
          intro e he
          rcases List.mem_cons.1 he with rfl | he
          · exact parseLoadLine_lt hr
          · exact ih hrest e he

/-- The writes leave every cell no line names as it was (R243). -/
theorem read_writeWords_other {b : Nat} : ∀ (ws : List (Nat × Word)) (m : Memory), (∀ e ∈ ws, e.1 ≠ b) →
    Memory.read (writeWords ws m) b = Memory.read m b
  | [], _, _ => rfl
  | (a, w) :: rest, m, h => by
    rw [writeWords, read_writeWords_other rest _ fun e he => h e (List.mem_cons_of_mem _ he), Memory.read_write,
      if_neg fun hb => h (a, w) (by simp) hb.symm]

/-- Writes made one list after another. -/
theorem writeWords_append : ∀ (us ws : List (Nat × Word)) (m : Memory),
    writeWords (us ++ ws) m = writeWords ws (writeWords us m)
  | [], _, _ => rfl
  | (_, _) :: us, ws, _ => writeWords_append us ws _

/-- The writes keep the canonical form. -/
theorem wf_writeWords : ∀ (ws : List (Nat × Word)) (m : Memory), (∀ e ∈ ws, e.1 < 128) → Memory.wf m = true →
    Memory.wf (writeWords ws m) = true
  | [], _, _, h => h
  | (a, w) :: rest, m, hw, h =>
    wf_writeWords rest _ (fun e he => hw e (List.mem_cons_of_mem _ he)) (Memory.wf_write w (hw (a, w) (by simp)) h)

/-- Clearing leaves the canonical form. -/
theorem Memory.wf_clear (m : Memory) : Memory.wf m.clear = true := rfl

/-- A host write that is not refused goes to a cell and changes nothing else (R76). -/
theorem State.writeCell_eq {s t : State} {a v : Int} (h : s.writeCell a v = .ok t) :
    0 ≤ a ∧ a < 128 ∧ t = { s with mem := Memory.write s.mem a.toNat (Reg.set 13 v) } := by
  unfold State.writeCell at h
  split at h
  · next hr =>
    split at h
    · cases Except.ok.inj h
      exact ⟨((addressInRange_iff a).1 hr).1, ((addressInRange_iff a).1 hr).2, rfl⟩
    · simp at h
  · simp at h

end Sys2Proof.Machine
end

