-- ==== Sys2Proof/Laws/State.lean ====
section
/-! SUPPORT. One lemma per field per update of State, each true by unfolding: a read of a field after an update. -/

namespace Sys2Proof.Machine

@[simp] theorem State.setIr_ir (s : State) (v : Word) : (s.setIr v).ir = v := rfl
@[simp] theorem State.setIr_dr (s : State) (v : Word) : (s.setIr v).dr = s.dr := rfl
@[simp] theorem State.setIr_pc (s : State) (v : Word) : (s.setIr v).pc = s.pc := rfl
@[simp] theorem State.setIr_ac (s : State) (v : Word) : (s.setIr v).ac = s.ac := rfl
@[simp] theorem State.setIr_ar (s : State) (v : Word) : (s.setIr v).ar = s.ar := rfl
@[simp] theorem State.setIr_sp (s : State) (v : Word) : (s.setIr v).sp = s.sp := rfl
@[simp] theorem State.setIr_bp (s : State) (v : Word) : (s.setIr v).bp = s.bp := rfl
@[simp] theorem State.setIr_mem (s : State) (v : Word) : (s.setIr v).mem = s.mem := rfl
@[simp] theorem State.setIr_running (s : State) (v : Word) : (s.setIr v).running = s.running := rfl
@[simp] theorem State.setIr_raSet (s : State) (v : Word) : (s.setIr v).raSet = s.raSet := rfl
@[simp] theorem State.setIr_breakpoints (s : State) (v : Word) : (s.setIr v).breakpoints = s.breakpoints := rfl
@[simp] theorem State.setIr_input (s : State) (v : Word) : (s.setIr v).input = s.input := rfl
@[simp] theorem State.setIr_output (s : State) (v : Word) : (s.setIr v).output = s.output := rfl
@[simp] theorem State.setIr_lastEnd (s : State) (v : Word) : (s.setIr v).lastEnd = s.lastEnd := rfl
@[simp] theorem State.setIr_draws (s : State) (v : Word) : (s.setIr v).draws = s.draws := rfl

@[simp] theorem State.setDr_ir (s : State) (v : Word) : (s.setDr v).ir = s.ir := rfl
@[simp] theorem State.setDr_dr (s : State) (v : Word) : (s.setDr v).dr = v := rfl
@[simp] theorem State.setDr_pc (s : State) (v : Word) : (s.setDr v).pc = s.pc := rfl
@[simp] theorem State.setDr_ac (s : State) (v : Word) : (s.setDr v).ac = s.ac := rfl
@[simp] theorem State.setDr_ar (s : State) (v : Word) : (s.setDr v).ar = s.ar := rfl
@[simp] theorem State.setDr_sp (s : State) (v : Word) : (s.setDr v).sp = s.sp := rfl
@[simp] theorem State.setDr_bp (s : State) (v : Word) : (s.setDr v).bp = s.bp := rfl
@[simp] theorem State.setDr_mem (s : State) (v : Word) : (s.setDr v).mem = s.mem := rfl
@[simp] theorem State.setDr_running (s : State) (v : Word) : (s.setDr v).running = s.running := rfl
@[simp] theorem State.setDr_raSet (s : State) (v : Word) : (s.setDr v).raSet = s.raSet := rfl
@[simp] theorem State.setDr_breakpoints (s : State) (v : Word) : (s.setDr v).breakpoints = s.breakpoints := rfl
@[simp] theorem State.setDr_input (s : State) (v : Word) : (s.setDr v).input = s.input := rfl
@[simp] theorem State.setDr_output (s : State) (v : Word) : (s.setDr v).output = s.output := rfl
@[simp] theorem State.setDr_lastEnd (s : State) (v : Word) : (s.setDr v).lastEnd = s.lastEnd := rfl
@[simp] theorem State.setDr_draws (s : State) (v : Word) : (s.setDr v).draws = s.draws := rfl

@[simp] theorem State.setPc_ir (s : State) (v : Addr) : (s.setPc v).ir = s.ir := rfl
@[simp] theorem State.setPc_dr (s : State) (v : Addr) : (s.setPc v).dr = s.dr := rfl
@[simp] theorem State.setPc_pc (s : State) (v : Addr) : (s.setPc v).pc = v := rfl
@[simp] theorem State.setPc_ac (s : State) (v : Addr) : (s.setPc v).ac = s.ac := rfl
@[simp] theorem State.setPc_ar (s : State) (v : Addr) : (s.setPc v).ar = s.ar := rfl
@[simp] theorem State.setPc_sp (s : State) (v : Addr) : (s.setPc v).sp = s.sp := rfl
@[simp] theorem State.setPc_bp (s : State) (v : Addr) : (s.setPc v).bp = s.bp := rfl
@[simp] theorem State.setPc_mem (s : State) (v : Addr) : (s.setPc v).mem = s.mem := rfl
@[simp] theorem State.setPc_running (s : State) (v : Addr) : (s.setPc v).running = s.running := rfl
@[simp] theorem State.setPc_raSet (s : State) (v : Addr) : (s.setPc v).raSet = s.raSet := rfl
@[simp] theorem State.setPc_breakpoints (s : State) (v : Addr) : (s.setPc v).breakpoints = s.breakpoints := rfl
@[simp] theorem State.setPc_input (s : State) (v : Addr) : (s.setPc v).input = s.input := rfl
@[simp] theorem State.setPc_output (s : State) (v : Addr) : (s.setPc v).output = s.output := rfl
@[simp] theorem State.setPc_lastEnd (s : State) (v : Addr) : (s.setPc v).lastEnd = s.lastEnd := rfl
@[simp] theorem State.setPc_draws (s : State) (v : Addr) : (s.setPc v).draws = s.draws := rfl

@[simp] theorem State.setAc_ir (s : State) (v : Word) : (s.setAc v).ir = s.ir := rfl
@[simp] theorem State.setAc_dr (s : State) (v : Word) : (s.setAc v).dr = s.dr := rfl
@[simp] theorem State.setAc_pc (s : State) (v : Word) : (s.setAc v).pc = s.pc := rfl
@[simp] theorem State.setAc_ac (s : State) (v : Word) : (s.setAc v).ac = v := rfl
@[simp] theorem State.setAc_ar (s : State) (v : Word) : (s.setAc v).ar = s.ar := rfl
@[simp] theorem State.setAc_sp (s : State) (v : Word) : (s.setAc v).sp = s.sp := rfl
@[simp] theorem State.setAc_bp (s : State) (v : Word) : (s.setAc v).bp = s.bp := rfl
@[simp] theorem State.setAc_mem (s : State) (v : Word) : (s.setAc v).mem = s.mem := rfl
@[simp] theorem State.setAc_running (s : State) (v : Word) : (s.setAc v).running = s.running := rfl
@[simp] theorem State.setAc_raSet (s : State) (v : Word) : (s.setAc v).raSet = s.raSet := rfl
@[simp] theorem State.setAc_breakpoints (s : State) (v : Word) : (s.setAc v).breakpoints = s.breakpoints := rfl
@[simp] theorem State.setAc_input (s : State) (v : Word) : (s.setAc v).input = s.input := rfl
@[simp] theorem State.setAc_output (s : State) (v : Word) : (s.setAc v).output = s.output := rfl
@[simp] theorem State.setAc_lastEnd (s : State) (v : Word) : (s.setAc v).lastEnd = s.lastEnd := rfl
@[simp] theorem State.setAc_draws (s : State) (v : Word) : (s.setAc v).draws = s.draws := rfl

@[simp] theorem State.setAr_ir (s : State) (v : Addr) : (s.setAr v).ir = s.ir := rfl
@[simp] theorem State.setAr_dr (s : State) (v : Addr) : (s.setAr v).dr = s.dr := rfl
@[simp] theorem State.setAr_pc (s : State) (v : Addr) : (s.setAr v).pc = s.pc := rfl
@[simp] theorem State.setAr_ac (s : State) (v : Addr) : (s.setAr v).ac = s.ac := rfl
@[simp] theorem State.setAr_ar (s : State) (v : Addr) : (s.setAr v).ar = v := rfl
@[simp] theorem State.setAr_sp (s : State) (v : Addr) : (s.setAr v).sp = s.sp := rfl
@[simp] theorem State.setAr_bp (s : State) (v : Addr) : (s.setAr v).bp = s.bp := rfl
@[simp] theorem State.setAr_mem (s : State) (v : Addr) : (s.setAr v).mem = s.mem := rfl
@[simp] theorem State.setAr_running (s : State) (v : Addr) : (s.setAr v).running = s.running := rfl
@[simp] theorem State.setAr_raSet (s : State) (v : Addr) : (s.setAr v).raSet = s.raSet := rfl
@[simp] theorem State.setAr_breakpoints (s : State) (v : Addr) : (s.setAr v).breakpoints = s.breakpoints := rfl
@[simp] theorem State.setAr_input (s : State) (v : Addr) : (s.setAr v).input = s.input := rfl
@[simp] theorem State.setAr_output (s : State) (v : Addr) : (s.setAr v).output = s.output := rfl
@[simp] theorem State.setAr_lastEnd (s : State) (v : Addr) : (s.setAr v).lastEnd = s.lastEnd := rfl
@[simp] theorem State.setAr_draws (s : State) (v : Addr) : (s.setAr v).draws = s.draws := rfl

@[simp] theorem State.setSp_ir (s : State) (v : Addr) : (s.setSp v).ir = s.ir := rfl
@[simp] theorem State.setSp_dr (s : State) (v : Addr) : (s.setSp v).dr = s.dr := rfl
@[simp] theorem State.setSp_pc (s : State) (v : Addr) : (s.setSp v).pc = s.pc := rfl
@[simp] theorem State.setSp_ac (s : State) (v : Addr) : (s.setSp v).ac = s.ac := rfl
@[simp] theorem State.setSp_ar (s : State) (v : Addr) : (s.setSp v).ar = s.ar := rfl
@[simp] theorem State.setSp_sp (s : State) (v : Addr) : (s.setSp v).sp = v := rfl
@[simp] theorem State.setSp_bp (s : State) (v : Addr) : (s.setSp v).bp = s.bp := rfl
@[simp] theorem State.setSp_mem (s : State) (v : Addr) : (s.setSp v).mem = s.mem := rfl
@[simp] theorem State.setSp_running (s : State) (v : Addr) : (s.setSp v).running = s.running := rfl
@[simp] theorem State.setSp_raSet (s : State) (v : Addr) : (s.setSp v).raSet = s.raSet := rfl
@[simp] theorem State.setSp_breakpoints (s : State) (v : Addr) : (s.setSp v).breakpoints = s.breakpoints := rfl
@[simp] theorem State.setSp_input (s : State) (v : Addr) : (s.setSp v).input = s.input := rfl
@[simp] theorem State.setSp_output (s : State) (v : Addr) : (s.setSp v).output = s.output := rfl
@[simp] theorem State.setSp_lastEnd (s : State) (v : Addr) : (s.setSp v).lastEnd = s.lastEnd := rfl
@[simp] theorem State.setSp_draws (s : State) (v : Addr) : (s.setSp v).draws = s.draws := rfl

@[simp] theorem State.setBp_ir (s : State) (v : Addr) : (s.setBp v).ir = s.ir := rfl
@[simp] theorem State.setBp_dr (s : State) (v : Addr) : (s.setBp v).dr = s.dr := rfl
@[simp] theorem State.setBp_pc (s : State) (v : Addr) : (s.setBp v).pc = s.pc := rfl
@[simp] theorem State.setBp_ac (s : State) (v : Addr) : (s.setBp v).ac = s.ac := rfl
@[simp] theorem State.setBp_ar (s : State) (v : Addr) : (s.setBp v).ar = s.ar := rfl
@[simp] theorem State.setBp_sp (s : State) (v : Addr) : (s.setBp v).sp = s.sp := rfl
@[simp] theorem State.setBp_bp (s : State) (v : Addr) : (s.setBp v).bp = v := rfl
@[simp] theorem State.setBp_mem (s : State) (v : Addr) : (s.setBp v).mem = s.mem := rfl
@[simp] theorem State.setBp_running (s : State) (v : Addr) : (s.setBp v).running = s.running := rfl
@[simp] theorem State.setBp_raSet (s : State) (v : Addr) : (s.setBp v).raSet = s.raSet := rfl
@[simp] theorem State.setBp_breakpoints (s : State) (v : Addr) : (s.setBp v).breakpoints = s.breakpoints := rfl
@[simp] theorem State.setBp_input (s : State) (v : Addr) : (s.setBp v).input = s.input := rfl
@[simp] theorem State.setBp_output (s : State) (v : Addr) : (s.setBp v).output = s.output := rfl
@[simp] theorem State.setBp_lastEnd (s : State) (v : Addr) : (s.setBp v).lastEnd = s.lastEnd := rfl
@[simp] theorem State.setBp_draws (s : State) (v : Addr) : (s.setBp v).draws = s.draws := rfl

@[simp] theorem State.setMem_ir (s : State) (v : Memory) : (s.setMem v).ir = s.ir := rfl
@[simp] theorem State.setMem_dr (s : State) (v : Memory) : (s.setMem v).dr = s.dr := rfl
@[simp] theorem State.setMem_pc (s : State) (v : Memory) : (s.setMem v).pc = s.pc := rfl
@[simp] theorem State.setMem_ac (s : State) (v : Memory) : (s.setMem v).ac = s.ac := rfl
@[simp] theorem State.setMem_ar (s : State) (v : Memory) : (s.setMem v).ar = s.ar := rfl
@[simp] theorem State.setMem_sp (s : State) (v : Memory) : (s.setMem v).sp = s.sp := rfl
@[simp] theorem State.setMem_bp (s : State) (v : Memory) : (s.setMem v).bp = s.bp := rfl
@[simp] theorem State.setMem_mem (s : State) (v : Memory) : (s.setMem v).mem = v := rfl
@[simp] theorem State.setMem_running (s : State) (v : Memory) : (s.setMem v).running = s.running := rfl
@[simp] theorem State.setMem_raSet (s : State) (v : Memory) : (s.setMem v).raSet = s.raSet := rfl
@[simp] theorem State.setMem_breakpoints (s : State) (v : Memory) : (s.setMem v).breakpoints = s.breakpoints := rfl
@[simp] theorem State.setMem_input (s : State) (v : Memory) : (s.setMem v).input = s.input := rfl
@[simp] theorem State.setMem_output (s : State) (v : Memory) : (s.setMem v).output = s.output := rfl
@[simp] theorem State.setMem_lastEnd (s : State) (v : Memory) : (s.setMem v).lastEnd = s.lastEnd := rfl
@[simp] theorem State.setMem_draws (s : State) (v : Memory) : (s.setMem v).draws = s.draws := rfl

@[simp] theorem State.setRunning_ir (s : State) (v : Bool) : (s.setRunning v).ir = s.ir := rfl
@[simp] theorem State.setRunning_dr (s : State) (v : Bool) : (s.setRunning v).dr = s.dr := rfl
@[simp] theorem State.setRunning_pc (s : State) (v : Bool) : (s.setRunning v).pc = s.pc := rfl
@[simp] theorem State.setRunning_ac (s : State) (v : Bool) : (s.setRunning v).ac = s.ac := rfl
@[simp] theorem State.setRunning_ar (s : State) (v : Bool) : (s.setRunning v).ar = s.ar := rfl
@[simp] theorem State.setRunning_sp (s : State) (v : Bool) : (s.setRunning v).sp = s.sp := rfl
@[simp] theorem State.setRunning_bp (s : State) (v : Bool) : (s.setRunning v).bp = s.bp := rfl
@[simp] theorem State.setRunning_mem (s : State) (v : Bool) : (s.setRunning v).mem = s.mem := rfl
@[simp] theorem State.setRunning_running (s : State) (v : Bool) : (s.setRunning v).running = v := rfl
@[simp] theorem State.setRunning_raSet (s : State) (v : Bool) : (s.setRunning v).raSet = s.raSet := rfl
@[simp] theorem State.setRunning_breakpoints (s : State) (v : Bool) : (s.setRunning v).breakpoints = s.breakpoints := rfl
@[simp] theorem State.setRunning_input (s : State) (v : Bool) : (s.setRunning v).input = s.input := rfl
@[simp] theorem State.setRunning_output (s : State) (v : Bool) : (s.setRunning v).output = s.output := rfl
@[simp] theorem State.setRunning_lastEnd (s : State) (v : Bool) : (s.setRunning v).lastEnd = s.lastEnd := rfl
@[simp] theorem State.setRunning_draws (s : State) (v : Bool) : (s.setRunning v).draws = s.draws := rfl

@[simp] theorem State.setRaSet_ir (s : State) (v : AddrSet) : (s.setRaSet v).ir = s.ir := rfl
@[simp] theorem State.setRaSet_dr (s : State) (v : AddrSet) : (s.setRaSet v).dr = s.dr := rfl
@[simp] theorem State.setRaSet_pc (s : State) (v : AddrSet) : (s.setRaSet v).pc = s.pc := rfl
@[simp] theorem State.setRaSet_ac (s : State) (v : AddrSet) : (s.setRaSet v).ac = s.ac := rfl
@[simp] theorem State.setRaSet_ar (s : State) (v : AddrSet) : (s.setRaSet v).ar = s.ar := rfl
@[simp] theorem State.setRaSet_sp (s : State) (v : AddrSet) : (s.setRaSet v).sp = s.sp := rfl
@[simp] theorem State.setRaSet_bp (s : State) (v : AddrSet) : (s.setRaSet v).bp = s.bp := rfl
@[simp] theorem State.setRaSet_mem (s : State) (v : AddrSet) : (s.setRaSet v).mem = s.mem := rfl
@[simp] theorem State.setRaSet_running (s : State) (v : AddrSet) : (s.setRaSet v).running = s.running := rfl
@[simp] theorem State.setRaSet_raSet (s : State) (v : AddrSet) : (s.setRaSet v).raSet = v := rfl
@[simp] theorem State.setRaSet_breakpoints (s : State) (v : AddrSet) : (s.setRaSet v).breakpoints = s.breakpoints := rfl
@[simp] theorem State.setRaSet_input (s : State) (v : AddrSet) : (s.setRaSet v).input = s.input := rfl
@[simp] theorem State.setRaSet_output (s : State) (v : AddrSet) : (s.setRaSet v).output = s.output := rfl
@[simp] theorem State.setRaSet_lastEnd (s : State) (v : AddrSet) : (s.setRaSet v).lastEnd = s.lastEnd := rfl
@[simp] theorem State.setRaSet_draws (s : State) (v : AddrSet) : (s.setRaSet v).draws = s.draws := rfl

@[simp] theorem State.setBreakpoints_ir (s : State) (v : AddrSet) : (s.setBreakpoints v).ir = s.ir := rfl
@[simp] theorem State.setBreakpoints_dr (s : State) (v : AddrSet) : (s.setBreakpoints v).dr = s.dr := rfl
@[simp] theorem State.setBreakpoints_pc (s : State) (v : AddrSet) : (s.setBreakpoints v).pc = s.pc := rfl
@[simp] theorem State.setBreakpoints_ac (s : State) (v : AddrSet) : (s.setBreakpoints v).ac = s.ac := rfl
@[simp] theorem State.setBreakpoints_ar (s : State) (v : AddrSet) : (s.setBreakpoints v).ar = s.ar := rfl
@[simp] theorem State.setBreakpoints_sp (s : State) (v : AddrSet) : (s.setBreakpoints v).sp = s.sp := rfl
@[simp] theorem State.setBreakpoints_bp (s : State) (v : AddrSet) : (s.setBreakpoints v).bp = s.bp := rfl
@[simp] theorem State.setBreakpoints_mem (s : State) (v : AddrSet) : (s.setBreakpoints v).mem = s.mem := rfl
@[simp] theorem State.setBreakpoints_running (s : State) (v : AddrSet) : (s.setBreakpoints v).running = s.running := rfl
@[simp] theorem State.setBreakpoints_raSet (s : State) (v : AddrSet) : (s.setBreakpoints v).raSet = s.raSet := rfl
@[simp] theorem State.setBreakpoints_breakpoints (s : State) (v : AddrSet) : (s.setBreakpoints v).breakpoints = v := rfl
@[simp] theorem State.setBreakpoints_input (s : State) (v : AddrSet) : (s.setBreakpoints v).input = s.input := rfl
@[simp] theorem State.setBreakpoints_output (s : State) (v : AddrSet) : (s.setBreakpoints v).output = s.output := rfl
@[simp] theorem State.setBreakpoints_lastEnd (s : State) (v : AddrSet) : (s.setBreakpoints v).lastEnd = s.lastEnd := rfl
@[simp] theorem State.setBreakpoints_draws (s : State) (v : AddrSet) : (s.setBreakpoints v).draws = s.draws := rfl

@[simp] theorem State.setInput_ir (s : State) (v : List Int) : (s.setInput v).ir = s.ir := rfl
@[simp] theorem State.setInput_dr (s : State) (v : List Int) : (s.setInput v).dr = s.dr := rfl
@[simp] theorem State.setInput_pc (s : State) (v : List Int) : (s.setInput v).pc = s.pc := rfl
@[simp] theorem State.setInput_ac (s : State) (v : List Int) : (s.setInput v).ac = s.ac := rfl
@[simp] theorem State.setInput_ar (s : State) (v : List Int) : (s.setInput v).ar = s.ar := rfl
@[simp] theorem State.setInput_sp (s : State) (v : List Int) : (s.setInput v).sp = s.sp := rfl
@[simp] theorem State.setInput_bp (s : State) (v : List Int) : (s.setInput v).bp = s.bp := rfl
@[simp] theorem State.setInput_mem (s : State) (v : List Int) : (s.setInput v).mem = s.mem := rfl
@[simp] theorem State.setInput_running (s : State) (v : List Int) : (s.setInput v).running = s.running := rfl
@[simp] theorem State.setInput_raSet (s : State) (v : List Int) : (s.setInput v).raSet = s.raSet := rfl
@[simp] theorem State.setInput_breakpoints (s : State) (v : List Int) : (s.setInput v).breakpoints = s.breakpoints := rfl
@[simp] theorem State.setInput_input (s : State) (v : List Int) : (s.setInput v).input = v := rfl
@[simp] theorem State.setInput_output (s : State) (v : List Int) : (s.setInput v).output = s.output := rfl
@[simp] theorem State.setInput_lastEnd (s : State) (v : List Int) : (s.setInput v).lastEnd = s.lastEnd := rfl
@[simp] theorem State.setInput_draws (s : State) (v : List Int) : (s.setInput v).draws = s.draws := rfl

@[simp] theorem State.setOutput_ir (s : State) (v : List Int) : (s.setOutput v).ir = s.ir := rfl
@[simp] theorem State.setOutput_dr (s : State) (v : List Int) : (s.setOutput v).dr = s.dr := rfl
@[simp] theorem State.setOutput_pc (s : State) (v : List Int) : (s.setOutput v).pc = s.pc := rfl
@[simp] theorem State.setOutput_ac (s : State) (v : List Int) : (s.setOutput v).ac = s.ac := rfl
@[simp] theorem State.setOutput_ar (s : State) (v : List Int) : (s.setOutput v).ar = s.ar := rfl
@[simp] theorem State.setOutput_sp (s : State) (v : List Int) : (s.setOutput v).sp = s.sp := rfl
@[simp] theorem State.setOutput_bp (s : State) (v : List Int) : (s.setOutput v).bp = s.bp := rfl
@[simp] theorem State.setOutput_mem (s : State) (v : List Int) : (s.setOutput v).mem = s.mem := rfl
@[simp] theorem State.setOutput_running (s : State) (v : List Int) : (s.setOutput v).running = s.running := rfl
@[simp] theorem State.setOutput_raSet (s : State) (v : List Int) : (s.setOutput v).raSet = s.raSet := rfl
@[simp] theorem State.setOutput_breakpoints (s : State) (v : List Int) : (s.setOutput v).breakpoints = s.breakpoints := rfl
@[simp] theorem State.setOutput_input (s : State) (v : List Int) : (s.setOutput v).input = s.input := rfl
@[simp] theorem State.setOutput_output (s : State) (v : List Int) : (s.setOutput v).output = v := rfl
@[simp] theorem State.setOutput_lastEnd (s : State) (v : List Int) : (s.setOutput v).lastEnd = s.lastEnd := rfl
@[simp] theorem State.setOutput_draws (s : State) (v : List Int) : (s.setOutput v).draws = s.draws := rfl

@[simp] theorem State.setLastEnd_ir (s : State) (v : CycleEnd) : (s.setLastEnd v).ir = s.ir := rfl
@[simp] theorem State.setLastEnd_dr (s : State) (v : CycleEnd) : (s.setLastEnd v).dr = s.dr := rfl
@[simp] theorem State.setLastEnd_pc (s : State) (v : CycleEnd) : (s.setLastEnd v).pc = s.pc := rfl
@[simp] theorem State.setLastEnd_ac (s : State) (v : CycleEnd) : (s.setLastEnd v).ac = s.ac := rfl
@[simp] theorem State.setLastEnd_ar (s : State) (v : CycleEnd) : (s.setLastEnd v).ar = s.ar := rfl
@[simp] theorem State.setLastEnd_sp (s : State) (v : CycleEnd) : (s.setLastEnd v).sp = s.sp := rfl
@[simp] theorem State.setLastEnd_bp (s : State) (v : CycleEnd) : (s.setLastEnd v).bp = s.bp := rfl
@[simp] theorem State.setLastEnd_mem (s : State) (v : CycleEnd) : (s.setLastEnd v).mem = s.mem := rfl
@[simp] theorem State.setLastEnd_running (s : State) (v : CycleEnd) : (s.setLastEnd v).running = s.running := rfl
@[simp] theorem State.setLastEnd_raSet (s : State) (v : CycleEnd) : (s.setLastEnd v).raSet = s.raSet := rfl
@[simp] theorem State.setLastEnd_breakpoints (s : State) (v : CycleEnd) : (s.setLastEnd v).breakpoints = s.breakpoints := rfl
@[simp] theorem State.setLastEnd_input (s : State) (v : CycleEnd) : (s.setLastEnd v).input = s.input := rfl
@[simp] theorem State.setLastEnd_output (s : State) (v : CycleEnd) : (s.setLastEnd v).output = s.output := rfl
@[simp] theorem State.setLastEnd_lastEnd (s : State) (v : CycleEnd) : (s.setLastEnd v).lastEnd = v := rfl
@[simp] theorem State.setLastEnd_draws (s : State) (v : CycleEnd) : (s.setLastEnd v).draws = s.draws := rfl

@[simp] theorem State.setDraws_ir (s : State) (v : Nat) : (s.setDraws v).ir = s.ir := rfl
@[simp] theorem State.setDraws_dr (s : State) (v : Nat) : (s.setDraws v).dr = s.dr := rfl
@[simp] theorem State.setDraws_pc (s : State) (v : Nat) : (s.setDraws v).pc = s.pc := rfl
@[simp] theorem State.setDraws_ac (s : State) (v : Nat) : (s.setDraws v).ac = s.ac := rfl
@[simp] theorem State.setDraws_ar (s : State) (v : Nat) : (s.setDraws v).ar = s.ar := rfl
@[simp] theorem State.setDraws_sp (s : State) (v : Nat) : (s.setDraws v).sp = s.sp := rfl
@[simp] theorem State.setDraws_bp (s : State) (v : Nat) : (s.setDraws v).bp = s.bp := rfl
@[simp] theorem State.setDraws_mem (s : State) (v : Nat) : (s.setDraws v).mem = s.mem := rfl
@[simp] theorem State.setDraws_running (s : State) (v : Nat) : (s.setDraws v).running = s.running := rfl
@[simp] theorem State.setDraws_raSet (s : State) (v : Nat) : (s.setDraws v).raSet = s.raSet := rfl
@[simp] theorem State.setDraws_breakpoints (s : State) (v : Nat) : (s.setDraws v).breakpoints = s.breakpoints := rfl
@[simp] theorem State.setDraws_input (s : State) (v : Nat) : (s.setDraws v).input = s.input := rfl
@[simp] theorem State.setDraws_output (s : State) (v : Nat) : (s.setDraws v).output = s.output := rfl
@[simp] theorem State.setDraws_lastEnd (s : State) (v : Nat) : (s.setDraws v).lastEnd = s.lastEnd := rfl
@[simp] theorem State.setDraws_draws (s : State) (v : Nat) : (s.setDraws v).draws = v := rfl

end Sys2Proof.Machine
end

