-- ==== Sys2Proof/Laws/Ops.lean ====
section
/-! SUPPORT. What each shared operation does, said once: an equation for one that always goes on, an equivalence for each
answer of one that may raise a fault. -/

namespace Sys2Proof.Machine

theorem State.memRead_eq (s : State) : s.memRead = { s with dr := Memory.read s.mem s.ar.toNat } := rfl

theorem State.memWrite_eq (s : State) : s.memWrite = { s with mem := Memory.write s.mem s.ar.toNat s.dr } := rfl

theorem State.operandFetch_eq (s : State) (imm : Addr) :
    s.operandFetch imm = { s with ar := imm, dr := Memory.read s.mem imm.toNat } := rfl

theorem State.fetch_eq (s : State) :
    s.fetch = { s with
      ir := Memory.read s.mem s.pc.toNat, ar := s.pc, dr := Memory.read s.mem s.pc.toNat, pc := s.pc + 1
      lastEnd := .completed } := rfl

theorem State.pushSlot_eq (s : State) : s.pushSlot = { s with ar := s.sp, sp := s.sp - 1 } := rfl

theorem State.popRead_eq (s : State) :
    s.popRead = { s with sp := s.sp + 1, ar := s.sp + 1, dr := Memory.read s.mem (s.sp + 1).toNat } := rfl

theorem State.halt_eq (s : State) : s.halt = { s with running := false, lastEnd := .halted } := rfl

theorem State.emit_eq (s : State) (v : Int) : s.emit v = { s with output := s.output ++ [v] } := rfl

theorem State.draw_eq (s : State) : s.draw = { s with draws := s.draws + 1 } := rfl

theorem State.jumpIf_eq (s : State) (c : Cond) :
    s.jumpIf c = { s with pc := if condHolds c s.ac then s.ar else s.pc } := by
  unfold State.jumpIf
  split <;> rfl

/-- The breakpoint check fires, or changes nothing. -/
theorem State.checkBreakpoint_cases (s : State) :
    (s.running = true ∧ AddrSet.has s.breakpoints s.pc = true ∧
      s.checkBreakpoint = { s with running := false, lastEnd := .breakpoint }) ∨
    (¬(s.running = true ∧ AddrSet.has s.breakpoints s.pc = true) ∧ s.checkBreakpoint = s) := by
  unfold State.checkBreakpoint
  split
  · next h => exact .inl ⟨(Bool.and_eq_true _ _ ▸ h).1, (Bool.and_eq_true _ _ ▸ h).2, rfl⟩
  · next h => exact .inr ⟨by simpa [Bool.and_eq_true] using h, rfl⟩

theorem raise_eq (k : FaultKind) (s : State) : raise k s = .fault (faultOf k { s with lastEnd := .faulted }) := rfl

@[simp] theorem faultState_faultOf (k : FaultKind) (s : State) : faultState (faultOf k s) = s := by cases k <;> rfl

@[simp] theorem faultKind_faultOf (k : FaultKind) (s : State) : faultKind (faultOf k s) = k := by cases k <;> rfl

/-- The state at a fault in a relative instruction: one of two pairs of AR and DR, one free value drawn. -/
theorem scratchAtFault_cases (e m : State) :
    scratchAtFault e m = { m with draws := m.draws + 1 } ∨
    scratchAtFault e m = { m with ar := e.ar, dr := e.dr, draws := m.draws + 1 } := by
  unfold scratchAtFault
  cases Config.faultScratchMoved m.draws
  · exact .inr rfl
  · exact .inl rfl

/-- IR after POPM: kept, or the bare address; one free value drawn. -/
theorem State.popmScratchIr_cases (s : State) (a : Addr) :
    s.popmScratchIr a = { s with draws := s.draws + 1 } ∨
    s.popmScratchIr a = { s with ir := Reg.to 13 a, draws := s.draws + 1 } := by
  unfold State.popmScratchIr
  cases Config.popmKeepsIr s.draws
  · exact .inr rfl
  · exact .inl rfl

/-- The effective address exists exactly when the sum is at most 127, and is then the 7-bit sum. -/
theorem effectiveAddress_eq (b x : Addr) :
    effectiveAddress b x = if b.toNat + x.toNat ≤ 127 then some (b + x) else none := by
  unfold effectiveAddress Config.maxAddress
  split
  · rw [BitVec.ofNat_add, BitVec.ofNat_toNat, BitVec.ofNat_toNat, BitVec.setWidth_eq, BitVec.setWidth_eq]
  · rfl

theorem withRelative_in {b x : Addr} (h : b.toNat + x.toNat ≤ 127) (e : State) (k : State → Result) :
    withRelative b x e k = k { e with ar := b + x } := by
  simp [withRelative, effectiveAddress_eq, h, State.setAr]

theorem withRelative_out {b x : Addr} (h : ¬ b.toNat + x.toNat ≤ 127) (e : State) (k : State → Result) :
    withRelative b x e k = .fault (.invalidAddress { e with lastEnd := .faulted }) := by
  simp [withRelative, effectiveAddress_eq, h, raise_eq, faultOf]

theorem commitAc_in {r : Int} (h : Reg.willOverflow 13 r = false) (s : State) :
    commitAc r s = .next { s with ac := Reg.set 13 r } := by
  simp [commitAc, h, State.setAc]

theorem commitAc_out {r : Int} (h : Reg.willOverflow 13 r = true) (s : State) :
    commitAc r s = .fault (.overflow { s with lastEnd := .faulted }) := by
  simp [commitAc, h, raise_eq, faultOf]

theorem commitAcRelative_in {r : Int} (h : Reg.willOverflow 13 r = false) (e s : State) :
    commitAcRelative r e s = .next { s with ac := Reg.set 13 r } := by
  simp [commitAcRelative, h, State.setAc]

theorem commitAcRelative_out {r : Int} (h : Reg.willOverflow 13 r = true) (e s : State) :
    commitAcRelative r e s = .fault (.overflow { scratchAtFault e s with lastEnd := .faulted }) := by
  simp [commitAcRelative, h, raise_eq, faultOf]

end Sys2Proof.Machine
end

