-- ==== Sys2Proof/Laws/PerInstr.lean ====
section
/-! SUPPORT. Laws per instruction, as syntax. EncodeFields: the word of an instruction carries its opcode in bits 12:7
and its immediate in bits 6:0 (spec/30_encoding.md R80, R81). -/

namespace Sys2Proof.Laws.EncodeFields

/-- The fields of the instruction's word are its opcode and its immediate. -/
def Statement (i : Instr) : Prop := opcodeField (encode i) = i.opcode ∧ immField (encode i) = i.imm

/-- Appending two fields keeps both. -/
theorem fields_of_append (opc : Opcode) (imm : Addr) :
    opcodeField (opc ++ imm) = opc ∧ immField (opc ++ imm) = imm :=
  ⟨BitVec.extractLsb'_append_eq_left, BitVec.extractLsb'_append_eq_right⟩

theorem lda (adr : Addr) : Statement (.lda adr) := fields_of_append _ _
theorem sta (adr : Addr) : Statement (.sta adr) := fields_of_append _ _
theorem add (adr : Addr) : Statement (.add adr) := fields_of_append _ _
theorem sub (adr : Addr) : Statement (.sub adr) := fields_of_append _ _
theorem jmp (adr : Addr) : Statement (.jmp adr) := fields_of_append _ _
theorem jms (adr : Addr) : Statement (.jms adr) := fields_of_append _ _
theorem jsr (adr : Addr) : Statement (.jsr adr) := fields_of_append _ _
theorem rtn (imm : Addr) : Statement (.rtn imm) := fields_of_append _ _
theorem jpl (adr : Addr) : Statement (.jpl adr) := fields_of_append _ _
theorem jze (adr : Addr) : Statement (.jze adr) := fields_of_append _ _
theorem out (adr : Addr) : Statement (.out adr) := fields_of_append _ _
theorem endd (imm : Addr) : Statement (.endd imm) := fields_of_append _ _
theorem psh (imm : Addr) : Statement (.psh imm) := fields_of_append _ _
theorem pop (imm : Addr) : Statement (.pop imm) := fields_of_append _ _
theorem pshm (adr : Addr) : Statement (.pshm adr) := fields_of_append _ _
theorem popm (adr : Addr) : Statement (.popm adr) := fields_of_append _ _
theorem nop (imm : Addr) : Statement (.nop imm) := fields_of_append _ _
theorem neg (imm : Addr) : Statement (.neg imm) := fields_of_append _ _
theorem inc (imm : Addr) : Statement (.inc imm) := fields_of_append _ _
theorem dec (imm : Addr) : Statement (.dec imm) := fields_of_append _ _
theorem jnz (adr : Addr) : Statement (.jnz adr) := fields_of_append _ _
theorem ldas (x : Addr) : Statement (.ldas x) := fields_of_append _ _
theorem stas (x : Addr) : Statement (.stas x) := fields_of_append _ _
theorem adds (x : Addr) : Statement (.adds x) := fields_of_append _ _
theorem subs (x : Addr) : Statement (.subs x) := fields_of_append _ _
theorem jnm (adr : Addr) : Statement (.jnm adr) := fields_of_append _ _
theorem jnp (adr : Addr) : Statement (.jnp adr) := fields_of_append _ _
theorem outs (x : Addr) : Statement (.outs x) := fields_of_append _ _
theorem inm (adr : Addr) : Statement (.inm adr) := fields_of_append _ _
theorem ins (x : Addr) : Statement (.ins x) := fields_of_append _ _
theorem ldab (x : Addr) : Statement (.ldab x) := fields_of_append _ _
theorem stab (x : Addr) : Statement (.stab x) := fields_of_append _ _
theorem addb (x : Addr) : Statement (.addb x) := fields_of_append _ _
theorem subb (x : Addr) : Statement (.subb x) := fields_of_append _ _
theorem outb (x : Addr) : Statement (.outb x) := fields_of_append _ _
theorem inb (x : Addr) : Statement (.inb x) := fields_of_append _ _
theorem popb (imm : Addr) : Statement (.popb imm) := fields_of_append _ _
theorem pshb (imm : Addr) : Statement (.pshb imm) := fields_of_append _ _
theorem bpsp (imm : Addr) : Statement (.bpsp imm) := fields_of_append _ _
theorem spbp (imm : Addr) : Statement (.spbp imm) := fields_of_append _ _
theorem defLow (opc : Opcode) (imm : Addr) : Statement (.defLow opc imm) := fields_of_append _ _
theorem defHigh (opc : Opcode) (imm : Addr) : Statement (.defHigh opc imm) := fields_of_append _ _

end Sys2Proof.Laws.EncodeFields
end

