-- ==== Sys2Proof/Laws/Run.lean ====
section
/-! SUPPORT. What the end of a run is, said once. -/

namespace Sys2Proof.Machine

@[simp] theorem runEnd_fault (f : Fault) : runEnd (.fault f) = some .faulted := rfl

@[simp] theorem runEnd_refused (r : Refusal) : runEnd (.refused r) = none := rfl

/-- A running state is no end of a run. -/
theorem runEnd_running {t : State} (h : t.running = true) : runEnd (.next t) = none := by simp [runEnd, h]

/-- A state is an end of a run exactly when the flag is 0 and the last cycle halted or hit a breakpoint (R110). -/
theorem State.ended_iff (s : State) :
    s.ended = true ↔ s.running = false ∧ (s.lastEnd = .halted ∨ s.lastEnd = .breakpoint) := by
  unfold State.ended runEnd
  cases hr : s.running <;> cases he : s.lastEnd <;> simp [hr, he]

end Sys2Proof.Machine
end

