-- ==== Sys2Proof/Laws/Step.lean ====
section
/-! SUPPORT. What a cycle can answer, said once. -/

namespace Sys2Proof.Machine

/-- A cycle that completes: the instruction completed, and the breakpoint check followed. -/
theorem step_eq_next {s t : State} :
    step s = .next t ↔ ∃ u, exec (decode s.fetch.ir) s.fetch = .next u ∧ t = u.checkBreakpoint := by
  unfold step
  cases exec (decode s.fetch.ir) s.fetch <;> simp [eq_comm]

/-- A cycle that faults: the instruction faulted, and nothing followed. -/
theorem step_eq_fault {s : State} {f : Fault} :
    step s = .fault f ↔ exec (decode s.fetch.ir) s.fetch = .fault f := by
  unfold step
  cases exec (decode s.fetch.ir) s.fetch <;> simp

end Sys2Proof.Machine
end

