-- ==== Sys2Proof/Tests/Slice0.lean ====
section
/-! SUPPORT. Tests of one step each. Every expected value is taken from spec/95_test_vectors.md (the vector a test's
comment names) or, for a word, written out from the spec's encoding. Last: the witnesses that the statements'
hypotheses can be met. -/

namespace Sys2Proof.Tests

open Sys2Proof.Machine

/-- The default start state of spec/95_test_vectors.md with some cells set and PC chosen: the reset state, running. -/
def start (cells : List (Nat × Word)) (pc : Addr) : State :=
  { State.reset with mem := writeWords cells [], pc := pc, running := true }

/-- What is read off the state a completed cycle leaves. -/
def after {α : Type} (s : State) (f : State → α) : Option α := (nextState? (step s)).map f

/-- What is read off the kind and the state of a cycle's fault. -/
def atFault {α : Type} (s : State) (f : FaultKind → State → α) : Option α :=
  (fault? (step s)).map fun x => f (faultKind x) (faultState x)

/-! ### Well-formedness -/

theorem test_wellFormed_refuses_low_opcode_in_defLow : (Instr.defLow 39 0).wellFormed = false := by decide
theorem test_wellFormed_refuses_high_opcode_in_defLow : (Instr.defLow 48 0).wellFormed = false := by decide
theorem test_wellFormed_refuses_low_opcode_in_defHigh : (Instr.defHigh 47 0).wellFormed = false := by decide
theorem test_wellFormed_admits_bounds :
    ((Instr.defLow 40 0).wellFormed && (Instr.defLow 47 127).wellFormed && (Instr.defHigh 48 0).wellFormed &&
      (Instr.defHigh 63 127).wellFormed && (Instr.spbp 127).wellFormed) = true := by decide

/-! ### Decoding: every row's word written out bit by bit from R80 and R84 -/

theorem test_decode_lda : decode 0b0000000001111 = .lda 15 := by decide
theorem test_decode_sta : decode 0b0000010001111 = .sta 15 := by decide
theorem test_decode_add : decode 0b0000100001111 = .add 15 := by decide
theorem test_decode_sub : decode 0b0000110001111 = .sub 15 := by decide
theorem test_decode_jmp : decode 0b0001000001111 = .jmp 15 := by decide
theorem test_decode_jms : decode 0b0001010001111 = .jms 15 := by decide
theorem test_decode_jsr : decode 0b0001100001111 = .jsr 15 := by decide
theorem test_decode_rtn : decode 0b0001110000000 = .rtn 0 := by decide
theorem test_decode_jpl : decode 0b0010000001111 = .jpl 15 := by decide
theorem test_decode_jze : decode 0b0010010001111 = .jze 15 := by decide
theorem test_decode_out : decode 0b0010100001111 = .out 15 := by decide
theorem test_decode_endd : decode 0b0010110000000 = .endd 0 := by decide
theorem test_decode_psh : decode 0b0011000000000 = .psh 0 := by decide
theorem test_decode_pop : decode 0b0011010000000 = .pop 0 := by decide
theorem test_decode_pshm : decode 0b0011100001111 = .pshm 15 := by decide
theorem test_decode_popm : decode 0b0011110001111 = .popm 15 := by decide
theorem test_decode_nop : decode 0b0100000000000 = .nop 0 := by decide
theorem test_decode_neg : decode 0b0100010000000 = .neg 0 := by decide
theorem test_decode_inc : decode 0b0100100000000 = .inc 0 := by decide
theorem test_decode_dec : decode 0b0100110000000 = .dec 0 := by decide
theorem test_decode_jnz : decode 0b0101000001111 = .jnz 15 := by decide
theorem test_decode_ldas : decode 0b0101010000011 = .ldas 3 := by decide
theorem test_decode_stas : decode 0b0101100000011 = .stas 3 := by decide
theorem test_decode_adds : decode 0b0101110000011 = .adds 3 := by decide
theorem test_decode_subs : decode 0b0110000000011 = .subs 3 := by decide
theorem test_decode_jnm : decode 0b0110010001111 = .jnm 15 := by decide
theorem test_decode_jnp : decode 0b0110100001111 = .jnp 15 := by decide
theorem test_decode_outs : decode 0b0110110000011 = .outs 3 := by decide
theorem test_decode_inm : decode 0b0111000001111 = .inm 15 := by decide
theorem test_decode_ins : decode 0b0111010000011 = .ins 3 := by decide
theorem test_decode_ldab : decode 0b0111100000011 = .ldab 3 := by decide
theorem test_decode_stab : decode 0b0111110000011 = .stab 3 := by decide
theorem test_decode_addb : decode 0b1000000000011 = .addb 3 := by decide
theorem test_decode_subb : decode 0b1000010000011 = .subb 3 := by decide
theorem test_decode_outb : decode 0b1000100000011 = .outb 3 := by decide
theorem test_decode_inb : decode 0b1000110000011 = .inb 3 := by decide
theorem test_decode_popb : decode 0b1001000000000 = .popb 0 := by decide
theorem test_decode_pshb : decode 0b1001010000000 = .pshb 0 := by decide
theorem test_decode_bpsp : decode 0b1001100000000 = .bpsp 0 := by decide
theorem test_decode_spbp : decode 0b1001110000000 = .spbp 0 := by decide
theorem test_decode_defLow : decode 0b1010110000001 = .defLow 43 1 := by decide
theorem test_decode_defHigh : decode 0b1100000000010 = .defHigh 48 2 := by decide
theorem test_decodeTableWord_def_bounds :
    decodeTableWord 13 5119 = some (.spbp 127) ∧ decodeTableWord 16 6143 = some (.defLow 47 127) ∧
      decodeTableWord 16 8192 = none := by decide
theorem test_commandName : commandName 5119 = "SPBP" ∧ commandName 5120 = "DEF" ∧ commandName 4607 = "INB" := by
  decide
theorem test_withFetchWord_runs_first :
    (nextState? (step (State.reset.withFetchWord 16 527))).map State.pc = some 15 := by decide

/-! ### One cycle each -/

/-- V1. -/
theorem test_lda :
    after (start [(20, 10), (10, 8191)] 20)
        (fun t => (t.pc, t.ac, t.ar, t.dr)) =
      some (21, 8191, 10, 8191) := by decide

/-- V2. -/
theorem test_lda_own_word :
    after (start [(20, 20)] 20)
        (fun t => (t.pc, t.ac, t.ar, t.dr)) =
      some (21, 20, 20, 20) := by decide

/-- V3. -/
theorem test_sta :
    after { start [(20, 138)] 20 with ac := 3 }
        (fun t => (t.pc, t.ac, t.ar, t.dr, t.cell 10)) =
      some (21, 3, 10, 3, 3) := by decide

/-- V5. -/
theorem test_add :
    after { start [(20, 286), (30, 8190)] 20 with ac := 5 }
        (fun t => (t.pc, t.ac, t.ar, t.dr)) =
      some (21, 3, 30, 8190) := by decide

/-- V6. -/
theorem test_add_overflow :
    atFault { start [(20, 286), (30, 1)] 20 with ac := 4095 }
        (fun k f => (k, f.pc, f.ac, f.ir, f.running)) =
      some (.overflow, 21, 4095, 286, true) := by decide

/-- V9. -/
theorem test_sub :
    after { start [(20, 414), (30, 5)] 20 with ac := 3 }
        (fun t => (t.pc, t.ac, t.ar, t.dr)) =
      some (21, 8190, 30, 5) := by decide

/-- V10. -/
theorem test_sub_overflow :
    atFault (start [(20, 414), (30, 4096)] 20)
        (fun k f => (k, f.pc, f.ac)) =
      some (.overflow, 21, 0) := by decide

/-- 95 section 2.2. -/
theorem test_jmp_at_4096 :
    after { start [(20, 519)] 20 with ac := 4096 }
        (fun t => (t.pc, t.ar)) =
      some (7, 7) := by decide

/-- 95 section 2.2. -/
theorem test_jms_at_4096 :
    after { start [(20, 647)] 20 with ac := 4096 }
        (fun t => (t.pc, t.ar)) =
      some (7, 7) := by decide

/-- 95 section 2.2. -/
theorem test_jms_at_4095 :
    after { start [(20, 647)] 20 with ac := 4095 }
        (fun t => (t.pc, t.ar)) =
      some (21, 7) := by decide

/-- 95 section 2.2. -/
theorem test_jpl_at_0 :
    after { start [(20, 1031)] 20 with ac := 0 }
        (fun t => (t.pc, t.ar)) =
      some (21, 7) := by decide

/-- 95 section 2.2. -/
theorem test_jpl_at_4095 :
    after { start [(20, 1031)] 20 with ac := 4095 }
        (fun t => (t.pc, t.ar)) =
      some (7, 7) := by decide

/-- 95 section 2.2. -/
theorem test_jze_at_0 :
    after { start [(20, 1159)] 20 with ac := 0 }
        (fun t => (t.pc, t.ar)) =
      some (7, 7) := by decide

/-- 95 section 2.2. -/
theorem test_jze_at_1 :
    after { start [(20, 1159)] 20 with ac := 1 }
        (fun t => (t.pc, t.ar)) =
      some (21, 7) := by decide

/-- 95 section 2.2. -/
theorem test_jnm_at_0 :
    after { start [(20, 3207)] 20 with ac := 0 }
        (fun t => (t.pc, t.ar)) =
      some (7, 7) := by decide

/-- 95 section 2.2. -/
theorem test_jnm_at_4096 :
    after { start [(20, 3207)] 20 with ac := 4096 }
        (fun t => (t.pc, t.ar)) =
      some (21, 7) := by decide

/-- 95 section 2.2. -/
theorem test_jnp_at_0 :
    after { start [(20, 3335)] 20 with ac := 0 }
        (fun t => (t.pc, t.ar)) =
      some (7, 7) := by decide

/-- 95 section 2.2. -/
theorem test_jnp_at_1 :
    after { start [(20, 3335)] 20 with ac := 1 }
        (fun t => (t.pc, t.ar)) =
      some (21, 7) := by decide

/-- 95 section 2.2. -/
theorem test_jnz_at_8191 :
    after { start [(20, 2567)] 20 with ac := 8191 }
        (fun t => (t.pc, t.ar)) =
      some (7, 7) := by decide

/-- 95 section 2.2. -/
theorem test_jnz_at_0 :
    after { start [(20, 2567)] 20 with ac := 0 }
        (fun t => (t.pc, t.ar)) =
      some (21, 7) := by decide

/-- V30. -/
theorem test_jsr :
    after { start [(2, 775)] 2 with sp := 126 }
        (fun t => (t.cell 126, t.sp, t.pc, t.ar, t.raSet)) =
      some (3, 125, 7, 126, [126]) := by decide

/-- V31. -/
theorem test_jsr_wraps :
    after { start [(127, 775)] 127 with sp := 0 }
        (fun t => (t.cell 0, t.sp, t.pc, t.dr, t.raSet)) =
      some (0, 127, 7, 0, [0]) := by decide

/-- V32. -/
theorem test_rtn :
    after { start [(20, 896), (126, 3)] 20 with sp := 125, raSet := [126] }
        (fun t => (t.sp, t.pc, t.ar, t.dr, t.raSet)) =
      some (126, 3, 126, 3, []) := by decide

/-- V33. -/
theorem test_rtn_wraps_and_truncates :
    after { start [(20, 896), (0, 775)] 20 with sp := 127 }
        (fun t => (t.sp, t.pc, t.ar, t.dr)) =
      some (0, 7, 0, 775) := by decide

/-- V34. -/
theorem test_psh :
    after { start [(20, 1536)] 20 with ac := 21 }
        (fun t => (t.cell 127, t.sp, t.ar, t.dr, t.ac)) =
      some (21, 126, 127, 21, 21) := by decide

/-- V35. -/
theorem test_psh_wraps :
    after { start [(20, 1536)] 20 with ac := 21, sp := 0 }
        (fun t => (t.cell 0, t.sp)) =
      some (21, 127) := by decide

/-- V36. -/
theorem test_pop :
    after { start [(20, 1664), (127, 42)] 20 with sp := 126 }
        (fun t => (t.sp, t.ac, t.ar, t.dr)) =
      some (127, 42, 127, 42) := by decide

/-- V37. -/
theorem test_pop_wraps :
    after (start [(20, 1664), (0, 9)] 20)
        (fun t => (t.sp, t.ac)) =
      some (0, 9) := by decide

/-- V38. -/
theorem test_pshm :
    after (start [(20, 1832), (40, 9)] 20)
        (fun t => (t.cell 127, t.sp, t.ar, t.dr, t.ac)) =
      some (9, 126, 127, 9, 0) := by decide

/-- V39. -/
theorem test_popm :
    after { start [(20, 1950), (127, 9)] 20 with sp := 126 }
        (fun t => (t.cell 30, t.sp, t.ar, t.dr)) =
      some (9, 127, 30, 9) := by decide

/-- V40. -/
theorem test_popm_onto_itself :
    after { start [(20, 2047), (127, 9)] 20 with sp := 126 }
        (fun t => (t.mem, t.sp)) =
      some ([(20, 2047), (127, 9)], 127) := by decide

/-- V61. -/
theorem test_nop :
    after { start [(20, 2053), (5, 6)] 20 with ac := 77 }
        (fun t => (t.pc, t.ac, t.ar, t.dr)) =
      some (21, 77, 5, 6) := by decide

/-- V21. -/
theorem test_nop_pc_wraps :
    after (start [(127, 2048)] 127)
        (fun t => (t.pc, t.ar, t.dr)) =
      some (0, 0, 0) := by decide

/-- V50. -/
theorem test_neg :
    after { start [(20, 2176)] 20 with ac := 5 }
        (fun t => (t.ac)) =
      some (8187) := by decide

/-- V52. -/
theorem test_neg_minimum :
    after { start [(20, 2176)] 20 with ac := 4096 }
        (fun t => (t.ac)) =
      some (4096) := by decide

/-- V56. -/
theorem test_inc_minus_one :
    after { start [(20, 2304)] 20 with ac := 8191 }
        (fun t => (t.ac)) =
      some (0) := by decide

/-- V55, V118. -/
theorem test_inc_overflow :
    atFault { start [(20, 2304)] 20 with ac := 4095, breakpoints := [21] }
        (fun k f => (k, f.ac, f.pc, f.running)) =
      some (.overflow, 4095, 21, true) := by decide

/-- V59. -/
theorem test_dec_zero :
    after (start [(20, 2432)] 20)
        (fun t => (t.ac)) =
      some (8191) := by decide

/-- V58. -/
theorem test_dec_overflow :
    atFault { start [(20, 2432)] 20 with ac := 4096 }
        (fun k f => (k, f.ac, f.pc)) =
      some (.overflow, 4096, 21) := by decide

/-- V62. -/
theorem test_out :
    after (start [(20, 1283), (3, 8190)] 20)
        (fun t => (t.output, t.ar, t.dr)) =
      some ([-2], 3, 8190) := by decide

/-- V63. -/
theorem test_out_minimum :
    after (start [(20, 1283), (3, 4096)] 20)
        (fun t => (t.output)) =
      some ([-4096]) := by decide

/-- V65. -/
theorem test_inm_masks :
    after { start [(20, 3594)] 20 with input := [-1, 4] }
        (fun t => (t.cell 10, t.ar, t.dr, t.input)) =
      some (8191, 10, 8191, [4]) := by decide

/-- V67. -/
theorem test_inm_end_of_input :
    after (start [(20, 3594), (10, 77)] 20)
        (fun t => (t.running, t.cell 10, t.pc, t.dr, t.status)) =
      some (false, 77, 21, 77, some .halted) := by decide

/-- V68, V114. -/
theorem test_end :
    after { start [(20, 1408)] 20 with breakpoints := [21] }
        (fun t => (t.running, t.pc, t.status)) =
      some (false, 21, some .halted) := by decide

/-- V70. -/
theorem test_ldas :
    after { start [(20, 2691), (127, 21)] 20 with sp := 124 }
        (fun t => (t.pc, t.ac, t.ar, t.dr)) =
      some (21, 21, 127, 21) := by decide

/-- V71. -/
theorem test_ldas_past_top :
    atFault { start [(20, 2692), (4, 5)] 20 with sp := 124 }
        (fun k f => (k, f.ac, f.ar, f.dr, f.running)) =
      some (.invalidAddress, 0, 4, 5, true) := by decide

/-- V75. -/
theorem test_stas :
    after { start [(20, 2819)] 20 with sp := 124, ac := 42 }
        (fun t => (t.cell 127, t.ar, t.dr)) =
      some (42, 127, 42) := by decide

/-- V76. -/
theorem test_stas_past_top :
    atFault { start [(20, 2820)] 20 with sp := 124, ac := 42 }
        (fun k f => (k, f.mem, f.ar)) =
      some (.invalidAddress, [(20, 2820)], 4) := by decide

/-- V77. -/
theorem test_adds :
    after { start [(20, 2947), (127, 21)] 20 with sp := 124, ac := 21 }
        (fun t => (t.pc, t.ac, t.ar, t.dr)) =
      some (21, 42, 127, 21) := by decide

/-- V79. -/
theorem test_adds_address_first :
    atFault { start [(20, 2948), (4, 1)] 20 with sp := 124, ac := 4095 }
        (fun k f => (k, f.ac, f.ar, f.dr)) =
      some (.invalidAddress, 4095, 4, 1) := by decide

/-- V80. -/
theorem test_subs :
    after { start [(20, 3073), (127, 5)] 20 with sp := 126, ac := 3 }
        (fun t => (t.ac)) =
      some (8190) := by decide

/-- V81. -/
theorem test_ldab :
    after { start [(20, 3843), (127, 21)] 20 with bp := 124 }
        (fun t => (t.pc, t.ac, t.ar, t.dr)) =
      some (21, 21, 127, 21) := by decide

/-- V86. -/
theorem test_ldab_past_top :
    atFault (start [(20, 3841), (1, 6)] 20)
        (fun k f => (k, f.ar, f.dr)) =
      some (.invalidAddress, 1, 6) := by decide

/-- V82. -/
theorem test_stab :
    after { start [(20, 3971)] 20 with bp := 124, ac := 42 }
        (fun t => (t.cell 127)) =
      some (42) := by decide

/-- V83. -/
theorem test_addb :
    after { start [(20, 4099), (127, 21)] 20 with bp := 124, ac := 21 }
        (fun t => (t.ac)) =
      some (42) := by decide

/-- V84. -/
theorem test_subb :
    after { start [(20, 4226), (122, 1)] 20 with bp := 120 }
        (fun t => (t.ac, t.ar, t.dr)) =
      some (8191, 122, 1) := by decide

/-- V85. -/
theorem test_subb_overflow :
    atFault { start [(20, 4226), (122, 1)] 20 with bp := 120, ac := 4096 }
        (fun k f => (k, f.ac, f.pc)) =
      some (.overflow, 4096, 21) := by decide

/-- V90. -/
theorem test_spbp :
    after { start [(20, 4992)] 20 with sp := 124 }
        (fun t => (t.bp, t.sp)) =
      some (124, 124) := by decide

/-- V95. -/
theorem test_spbp_any_immediate :
    after { start [(5, 5119)] 5 with sp := 100 }
        (fun t => (t.bp, t.ar)) =
      some (100, 127) := by decide

/-- V91. -/
theorem test_bpsp :
    after { start [(20, 4864)] 20 with sp := 120, bp := 124 }
        (fun t => (t.sp, t.bp)) =
      some (124, 124) := by decide

/-- V92. -/
theorem test_pshb :
    after { start [(20, 4736)] 20 with sp := 125 }
        (fun t => (t.cell 125, t.sp, t.ar, t.dr)) =
      some (127, 124, 125, 127) := by decide

/-- V94. -/
theorem test_popb_truncates :
    after { start [(20, 4608), (125, 8191)] 20 with sp := 124, bp := 0 }
        (fun t => (t.sp, t.bp, t.dr)) =
      some (125, 127, 8191) := by decide

/-- V100. -/
theorem test_outs :
    after { start [(20, 3457), (127, 8191)] 20 with sp := 126 }
        (fun t => (t.output, t.ar, t.dr)) =
      some ([-1], 127, 8191) := by decide

/-- V101. -/
theorem test_outb :
    after { start [(20, 4355), (127, 42)] 20 with bp := 124 }
        (fun t => (t.output)) =
      some ([42]) := by decide

/-- V103. -/
theorem test_ins :
    after { start [(20, 3713)] 20 with sp := 126, input := [7] }
        (fun t => (t.cell 127, t.ar, t.dr, t.input)) =
      some (7, 127, 7, []) := by decide

/-- V105. -/
theorem test_ins_no_input :
    atFault { start [(20, 3713), (1, 3)] 20 with sp := 126 }
        (fun k f => (k, f.running, f.mem, f.pc)) =
      some (.noInputValue, true, [(1, 3), (20, 3713)], 21) := by decide

/-- V104. -/
theorem test_inb :
    after { start [(20, 4482)] 20 with bp := 120, input := [-3] }
        (fun t => (t.cell 122, t.ar, t.dr)) =
      some (8189, 122, 8189) := by decide

/-- V106 with BP for SP. -/
theorem test_inb_address_before_input :
    atFault { start [(20, 4482)] 20 with bp := 126, input := [7] }
        (fun k f => (k, f.input, f.ar)) =
      some (.invalidAddress, [7], 2) := by decide

/-- V110. -/
theorem test_def_high :
    after (start [(5, 8191)] 5)
        (fun t => (t.pc, t.ar, t.ir)) =
      some (6, 127, 8191) := by decide

/-- V111. -/
theorem test_def_low :
    after (start [(5, 5120), (0, 4)] 5)
        (fun t => (t.pc, t.ar, t.dr)) =
      some (6, 0, 4) := by decide

/-- V113. -/
theorem test_breakpoint_on_jump_target :
    after { start [(20, 527)] 20 with breakpoints := [15] }
        (fun t => (t.pc, t.running, t.status)) =
      some (15, false, some .breakpointHit) := by decide

/-- V115. -/
theorem test_breakpoint_not_when_stopped :
    after { start [(20, 2048)] 20 with running := false, breakpoints := [21] }
        (fun t => (t.pc, t.running, t.lastEnd)) =
      some (21, false, .completed) := by decide

/-- V117. -/
theorem test_breakpoint_after_data_word :
    after { start [(20, 8191)] 20 with breakpoints := [21] }
        (fun t => (t.pc, t.running, t.lastEnd)) =
      some (21, false, .breakpoint) := by decide

/-- V4: the stored word is what the next fetch takes. -/
theorem test_self_modified_word :
    after { start [(20, 149)] 20 with ac := 1408 }
        (fun t => (t.pc, t.cell 21, t.fetch.ir)) =
      some (21, 1408, 1408) := by decide

/-! ### Assembler and loader -/

/-- The lines of a text as the assembler takes them. -/
def text (ls : List String) : List Text := ls.map String.toList

/-- A4. -/
theorem test_assemble_shared_labels :
    assemble (text ["A:", "B:", "C NOP", "JMP A", "JMP b", "JMP C"]) =
      .ok (text ["0 NOP", "1 JMP 0", "2 JMP 0", "3 JMP 0"]) := by decide

/-- A5. -/
theorem test_assemble_equal_takes_newest :
    assemble (text ["TEN EQUAL 10", "LDA TEN", "A B EQUAL 5", "STA B", "JMP A"]) =
      .ok (text ["0 LDA 10", "1 STA 5", "2 JMP 1"]) := by decide

/-- A6. -/
theorem test_assemble_comments_and_colons :
    assemble (text ["; header", "start: LDA: 5: ; load", "", "JMP", "start"]) =
      .ok (text ["0 LDA 5", "1 JMP 0"]) := by decide

/-- A8. -/
theorem test_assemble_label_before_integer :
    assemble (text ["7 EQUAL 9", "LDA 7"]) = .ok (text ["0 LDA 9"]) := by decide

/-- A9. -/
theorem test_assemble_no_range_check :
    assemble (text ["X EQUAL -3", "LDA X", "LDA 200", "DEF -4096"]) =
      .ok (text ["0 LDA -3", "1 LDA 200", "2 DEF -4096"]) := by decide

/-- E2, E4, E5. -/
theorem test_assemble_label_errors :
    assemble (text ["Loop NOP", "LOOP NOP"]) = .error ⟨.assembleError, 2⟩ ∧
    assemble (text ["EQUAL 5"]) = .error ⟨.assembleError, 1⟩ ∧
    assemble (text ["NOP", "X EQUAL"]) = .error ⟨.assembleError, 2⟩ := by decide

/-- E6, E9, E11, E12. -/
theorem test_assemble_token_errors :
    assemble (text ["X EQUAL Y"]) = .error ⟨.scriptError, 1⟩ ∧
    assemble (text ["JMP END"]) = .error ⟨.assembleError, 1⟩ ∧
    assemble (text ["lda 5"]) = .error ⟨.scriptError, 1⟩ ∧
    assemble (text ["X:: NOP"]) = .error ⟨.scriptError, 1⟩ := by decide

/-- L1, L2, L3, L10. -/
theorem test_load_words :
    parseLoad 1 (text ["0 JMP 15", "1 OUT 3"]) = .ok [(0, 527), (1, 1283)] ∧
    parseLoad 1 (text ["5 DEF -1"]) = .ok [(5, 8191)] ∧
    parseLoad 1 (text ["1 DEF -4096"]) = .ok [(1, 4096)] ∧
    writeWords [(3, 2048), (3, 1408)] [] = [(3, 1408)] := by decide

/-- L11. -/
theorem test_load_skips_lines :
    parseLoad 1 (text ["; only a comment", "", "\x1a", "2 INC ; x"]) = .ok [(2, 2304)] := by decide

/-- L4, L5, L6, L8, L9, L12. -/
theorem test_load_errors :
    parseLoad 1 (text ["0 DEF 8192"]) = .error ⟨.scriptError, 1⟩ ∧
    parseLoad 1 (text ["0 LDA 128"]) = .error ⟨.invalidAddress, 1⟩ ∧
    parseLoad 1 (text ["128 NOP"]) = .error ⟨.invalidAddress, 1⟩ ∧
    parseLoad 1 (text ["0 RTN 5"]) = .error ⟨.scriptError, 1⟩ ∧
    parseLoad 1 (text ["0 LDA"]) = .error ⟨.scriptError, 1⟩ ∧
    parseLoad 1 (text ["0 NOP", "1 FOO 3"]) = .error ⟨.scriptError, 2⟩ := by decide

/-! ### Witnesses: for every statement with hypotheses, states and operands that meet them, clause by clause -/

/-- The answer is a next state. -/
def isNext (r : Result) : Bool := (nextState? r).isSome

/-- The answer is a fault of this kind. -/
def isFault (k : FaultKind) (r : Result) : Bool := decide ((fault? r).map faultKind = some k)

theorem witness_DecodeOfEncodeIsIdentity :
    (Instr.lda 127).wellFormed = true ∧ (Instr.spbp 127).wellFormed = true ∧
      (Instr.defLow 40 0).wellFormed = true ∧ (Instr.defLow 47 127).wellFormed = true ∧
      (Instr.defHigh 48 0).wellFormed = true ∧ (Instr.defHigh 63 127).wellFormed = true := by decide

theorem witness_WordNamesFollowTheTable :
    (opcodeField 5119).toNat < tableMnemonics.length ∧ tableMnemonics.length ≤ (opcodeField 5120).toNat ∧
      tableMnemonics.length ≤ (opcodeField 8191).toNat := by decide

/-- A completed cycle, one that hits a breakpoint, a fault. -/
theorem witness_StepRunsTheDecodedInstruction :
    let n := start [(20, 527)] 20
    let b := { n with breakpoints := [15] }
    let x := { start [(20, 2304)] 20 with ac := 4095 }
    decode (n.cell n.pc) = .jmp 15 ∧ isNext (exec (.jmp 15) n.fetch) = true ∧
    after b State.running = some false ∧ after n State.running = some true ∧
    decode (x.cell x.pc) = .inc 0 ∧ isFault .overflow (exec (.inc 0) x.fetch) = true := by decide

/-- A fault of each kind, in absolute and in relative forms. -/
theorem witness_FaultingCycleIsPrecise :
    isFault .overflow (step { start [(20, 2304)] 20 with ac := 4095 }) = true ∧
    isFault .overflow (step { start [(20, 2947), (127, 1)] 20 with sp := 124, ac := 4095 }) = true ∧
    isFault .overflow (step { start [(20, 4226), (122, 1)] 20 with bp := 120, ac := 4096 }) = true ∧
    isFault .invalidAddress (step { start [(20, 2692)] 20 with sp := 124 }) = true ∧
    isFault .noInputValue (step { start [(20, 3713)] 20 with sp := 126 }) = true ∧
    isFault .noInputValue (step { start [(20, 4482)] 20 with bp := 120 }) = true := by decide

theorem witness_ReturnAddressSetIsNotRead :
    isNext (step { start [(2, 775)] 2 with sp := 126, raSet := [5] }) = true ∧
    isNext (step { start [(20, 896)] 20 with sp := 4, raSet := [5] }) = true ∧
    isFault .overflow (step { start [(20, 2304)] 20 with ac := 4095, raSet := [5] }) = true := by decide

/-- Cleared by END, by INM without input, by a breakpoint; not cleared. -/
theorem witness_RunningFlagIsOnlyCleared :
    after (start [(20, 1408)] 20) State.running = some false ∧
    after (start [(20, 3594)] 20) State.running = some false ∧
    after { start [(20, 527)] 20 with breakpoints := [15] } State.running = some false ∧
    after (start [(20, 527)] 20) State.running = some true := by decide

theorem witness_PortsMoveInOrder :
    after { start [(20, 3594)] 20 with input := [1, 2] } State.input = some [2] ∧
    after { start [(20, 1283), (3, 4096)] 20 with output := [1] } State.output = some [1, -4096] ∧
    after { start [(20, 1283), (3, 4095)] 20 with output := [1] } State.output = some [1, 4095] := by decide

/-- Next states in which PC, memory, AC, SP, BP are written, and one in which none is. -/
theorem witness_OnlyListedInstructionsWrite :
    isNext (exec (.jmp 15) (start [] 20)) = true ∧ isNext (exec (.sta 15) { start [] 20 with ac := 1 }) = true ∧
    isNext (exec (.lda 15) (start [(15, 3)] 20)) = true ∧ isNext (exec (.psh 0) (start [] 20)) = true ∧
    isNext (exec (.popb 0) (start [] 20)) = true ∧ isNext (exec (.nop 0) (start [] 20)) = true := by decide

/-- A sum of 4095, one of 4096, differences of -4096 and -4097. -/
theorem witness_AddAndSubCommitOrOverflow :
    let s (ac m : Word) : State := { start [(30, m)] 20 with ac := ac }
    let sum (s : State) : Int := s.ac.toInt + (s.cell 30).toInt
    let diff (s : State) : Int := s.ac.toInt - (s.cell 30).toInt
    sum (s 4094 1) = 4095 ∧ sum (s 4095 1) = 4096 ∧ sum (s 4097 8191) = -4096 ∧ sum (s 4096 8191) = -4097 ∧
    diff (s 8191 4096) = 4095 ∧ diff (s 0 4096) = 4096 ∧ diff (s 4097 1) = -4096 ∧ diff (s 4096 1) = -4097 := by
  decide

/-- Exact results at both ends of the range and just past them, and a relative operand at the top of memory. -/
theorem witness_CheckedArithmeticLaw :
    exactResult (.inc 0) { start [] 20 with ac := 4094 } = some 4095 ∧
    exactResult (.inc 0) { start [] 20 with ac := 4095 } = some 4096 ∧
    isFault .overflow (exec (.inc 0) { start [] 20 with ac := 4095 }) = true ∧
    exactResult (.dec 0) { start [] 20 with ac := 4097 } = some (-4096) ∧
    exactResult (.dec 0) { start [] 20 with ac := 4096 } = some (-4097) ∧
    exactResult (.subb 7) { start [(127, 1)] 20 with bp := 120, ac := 4096 } = some (-4097) ∧
    exactResult (.adds 3) { start [(127, 1)] 20 with sp := 124 } = some 1 := by decide

/-- AC at every boundary of the jumps' conditions. -/
theorem witness_JumpsFollowTheirCondition :
    (4096 : Word).toInt < 0 ∧ (8191 : Word).toInt < 0 ∧ (0 : Word).toInt = 0 ∧ 0 < (1 : Word).toInt ∧
      0 < (4095 : Word).toInt := by decide

/-- The state after a call is itself a state with SP and the return cell as the call left them. -/
theorem witness_CallThenReturnComesBack :
    (nextState? (exec (.jsr 7) (start [] 20))).map (fun t => (t.sp, t.cell 127)) = some (126, 20) := by decide

theorem witness_NopAndNegNeverFault :
    (4096 : Word).toInt = -4096 ∧ (4095 : Word).toInt ≠ -4096 := by decide

theorem witness_IncAndDecStepTheAccumulator :
    (4094 : Word).toNat ≠ 4095 ∧ (4095 : Word).toNat = 4095 ∧ (4097 : Word).toNat ≠ 4096 ∧
      (4096 : Word).toNat = 4096 := by decide

theorem witness_InmReadsOrHalts :
    { start [] 20 with input := [-1, 8192] }.input = (-1) :: [8192] ∧ (start [] 20).input = [] := by decide

/-- Sums of exactly 127, and the smallest past it. -/
theorem witness_RelativeBounds :
    (124 : Addr).toNat + (3 : Addr).toNat = 127 ∧ (0 : Addr).toNat + (127 : Addr).toNat ≤ 127 ∧
    (127 : Addr).toNat + (0 : Addr).toNat ≤ 127 ∧ 127 < (124 : Addr).toNat + (4 : Addr).toNat ∧
    isFault .invalidAddress (exec (.inb 4) { start [] 20 with bp := 124 }) = true := by decide

/-- Relative sums and differences at both ends of the range, at the top cell, over SP and over BP. -/
theorem witness_RelativeArithmeticCommits :
    let s (ac m : Word) : State := { start [(127, m)] 20 with sp := 124, bp := 0, ac := ac }
    let fits (r : Int) : Prop := -4096 ≤ r ∧ r ≤ 4095
    let a := s 4094 1
    let b := s 4097 1
    a.sp.toNat + (3 : Addr).toNat ≤ 127 ∧ fits (a.ac.toInt + (a.cell (a.sp + 3)).toInt) ∧
    b.sp.toNat + (3 : Addr).toNat ≤ 127 ∧ fits (b.ac.toInt - (b.cell (b.sp + 3)).toInt) ∧
    a.bp.toNat + (127 : Addr).toNat ≤ 127 ∧ fits (a.ac.toInt + (a.cell (a.bp + 127)).toInt) ∧
    b.bp.toNat + (127 : Addr).toNat ≤ 127 ∧ fits (b.ac.toInt - (b.cell (b.bp + 127)).toInt) := by decide

theorem witness_NoInputValueExactlyInInsAndInb :
    isFault .noInputValue (exec (.ins 0) (start [] 20)) = true ∧
    isFault .noInputValue (exec (.inb 7) { start [] 20 with bp := 120 }) = true := by decide

theorem witness_RelativeInputsStoreTheNextValue :
    let s := { start [] 20 with sp := 126, bp := 120, input := [8192, 7] }
    s.input = 8192 :: [7] ∧ s.sp.toNat + (1 : Addr).toNat ≤ 127 ∧ s.bp.toNat + (7 : Addr).toNat ≤ 127 := by decide

theorem witness_StepKeepsCanonicalForm :
    let s := { start [(20, 1283), (3, 4096)] 20 with raSet := [5, 9], breakpoints := [1, 2], output := [4095] }
    let x := { start [(20, 2304)] 20 with ac := 4095 }
    s.Inv ∧ isNext (step s) = true ∧ x.Inv ∧ isFault .overflow (step x) = true := by decide

/-- One host operation that loads, one that writes a cell, one that sets a breakpoint. -/
theorem witness_HostOperationsKeepCanonicalForm :
    let s := start [(20, 1283)] 20
    let ok (op : HostOp) : Bool := (hostStep op s).toOption.isSome
    s.Inv ∧ ok (.load 127 127 (text ["127 DEF -1"]) false) = true ∧ ok (.writeCell 127 8191) = true ∧
      ok (.setBreakpoint 127) = true ∧ ok .clearMemory = true := by decide

/-- A run that goes on, one that faults, a machine that is not running. -/
theorem witness_RunsCompose :
    isNext (runLoop 1 (start [(20, 2048)] 20)) = true ∧
    isFault .overflow (runLoop 2 { start [(20, 2048), (21, 2304)] 20 with ac := 4095 }) = true ∧
    State.reset.running = false := by decide

/-- The end of a run after one cycle of a running machine: each of the four, and none. -/
theorem witness_RunEndsInFourWays :
    let e (s : State) : Bool × Option RunEnd := (s.running, runEnd (step s))
    e (start [(20, 1408)] 20) = (true, some .haltedByEnd) ∧ e (start [(20, 3594)] 20) = (true, some .haltedByInm) ∧
    e { start [(20, 527)] 20 with breakpoints := [15] } = (true, some .breakpoint) ∧
    e { start [(20, 2304)] 20 with ac := 4095 } = (true, some .faulted) ∧ e (start [(20, 527)] 20) = (true, none) := by
  decide

/-- A single step of a stopped machine, and a start and pause with no cycle, end no run (R109, R110). -/
theorem test_no_end_without_a_run :
    after { start [(20, 2048)] 20 with running := false } State.ended = some false ∧
    (((hostStep .start State.reset).toOption.bind fun t => (hostStep .pause t).toOption).map State.ended) =
      some false := by decide

theorem witness_RegisterWidths : 0 < 13 ∧ 0 < 7 ∧ 7 ≤ 13 ∧ (4096 : Word).toNat = 2 ^ 12 ∧ (0 : Word).toNat = 0 := by
  decide

/-- Candidates at and past both ends of AC's range. -/
theorem witness_WillOverflowIffOutOfRange :
    Reg.willOverflow 13 4095 = false ∧ Reg.willOverflow 13 4096 = true ∧ Reg.willOverflow 13 (-4096) = false ∧
      Reg.willOverflow 13 (-4097) = true := by decide

theorem witness_ParsedCommandsDecodeToTheirMnemonic :
    35 < tableMnemonics.length ∧ 127 ≤ 127 ∧ noArgumentOpcodes.contains 35 = false ∧
    39 < tableMnemonics.length ∧ noArgumentOpcodes.contains 39 = true ∧
    parseCommand "INB 127".toList = .ok 4607 ∧ parseCommand "SPBP".toList = .ok 4992 := by decide

/-- A patch of two cells, the first named twice; cell 7 is not named. -/
theorem witness_PatchLoadKeepsTheRest :
    let lines := text ["3 NOP", "127 DEF -1", "3 END"]
    ((start [(7, 9)] 20).load 127 127 lines false).toOption.map State.mem = some [(3, 1408), (7, 9), (127, 8191)] ∧
    parseLoad 1 lines = .ok ([(3, 2048), (127, 8191)] ++ (3, 1408) :: []) := by decide

/-- A source with labels, a constant and a data word assembles, and pass one ends well on it. -/
theorem witness_AssemblerStatements :
    let source := text ["NUM DEF 0", "LOOP INM NUM", "K EQUAL 1", "INC", "JMP LOOP"]
    assemble source = .ok (text ["0 DEF 0", "1 INM 0", "2 INC", "3 JMP 1"]) ∧
    (assembleLines source).toOption.isSome = true ∧
    (passOne (tokenize source) .classify { pending := [], labels := [], recorded := [], counter := 0 }).toOption.isSome =
      true := by decide

end Sys2Proof.Tests
end

section
/-! SUPPORT. The register primitives for any width (spec/10_state.md R28 to R34): what `set` and the derived quantities
are as numbers, and the statements about them. -/

namespace Sys2Proof.Machine

/-! ### `set` and the signed range -/

theorem toNat_set (b : Nat) (v : Int) : ((Reg.set b v).toNat : Int) = v % 2 ^ b := by
  unfold Reg.set
  rw [BitVec.toNat_ofInt, Nat.cast_pow, Nat.cast_ofNat, Int.toNat_of_nonneg (Int.emod_nonneg v (by positivity))]

theorem toNat_set_natCast (b n : Nat) : (Reg.set b (n : Int)).toNat = n % 2 ^ b := by
  exact_mod_cast toNat_set b n

theorem signedValue_set (b : Nat) (v : Int) : Reg.signedValue (Reg.set b v) = Int.bmod v (2 ^ b) :=
  BitVec.toInt_ofInt v

theorem minSigned_le_signedValue {b : Nat} (r : BitVec b) : Reg.minSigned b ≤ Reg.signedValue r :=
  BitVec.le_toInt r

theorem signedValue_le_maxSigned {b : Nat} (r : BitVec b) : Reg.signedValue r ≤ Reg.maxSigned b :=
  BitVec.toInt_le

/-- The width counts twice the magnitude of its least value. -/
theorem two_pow_eq_two_mul {b : Nat} (hb : 0 < b) : 2 ^ b = 2 * 2 ^ (b - 1) := by
  rw [← Nat.pow_succ', Nat.succ_eq_add_one, Nat.sub_add_cancel hb]

theorem willOverflow_eq_true (b : Nat) (c : Int) :
    Reg.willOverflow b c = true ↔ c < Reg.minSigned b ∨ Reg.maxSigned b < c := by
  simp [Reg.willOverflow]

/-- A candidate in the signed range is what the register reads as once it is set. -/
theorem signedValue_set_of_mem_range {b : Nat} {c : Int} (hb : 0 < b)
    (hmin : Reg.minSigned b ≤ c) (hmax : c ≤ Reg.maxSigned b) : Reg.signedValue (Reg.set b c) = c := by
  unfold Reg.minSigned at hmin
  unfold Reg.maxSigned at hmax
  have htwo : ((2 ^ b : Nat) : Int) = 2 * 2 ^ (b - 1) := by exact_mod_cast two_pow_eq_two_mul hb
  rw [signedValue_set]
  apply Int.bmod_eq_of_le <;> omega

/-- Settles O51: the register holds the residue of `v`, and its signed reading has the same residue. -/
theorem setMasksAndIsStable : Obligations.SetMasksAndIsStable := fun b v _ =>
  ⟨toNat_set b v, BitVec.ofInt_toInt, signedValue_set b v, minSigned_le_signedValue _, signedValue_le_maxSigned _⟩

/-- Settles O52: the check is the negation of the range in which `set` keeps the candidate. -/
theorem willOverflowIffOutOfRange : Obligations.WillOverflowIffOutOfRange := by
  intro b c hb
  refine ⟨willOverflow_eq_true b c, willOverflow_13 c, fun hfits => ?_⟩
  have hrange : ¬(c < Reg.minSigned b ∨ Reg.maxSigned b < c) := by rw [← willOverflow_eq_true, hfits]; decide
  rw [not_or, not_lt, not_lt] at hrange
  exact signedValue_set_of_mem_range hb hrange.1 hrange.2

/-! ### Derived quantities, transfers, operators -/

/-- The two's-complement reading (R29), by which half of the range the raw value lies in. -/
theorem signedValue_eq_ite {b : Nat} (hb : 0 < b) (r : BitVec b) :
    Reg.signedValue r = if r.toNat < 2 ^ (b - 1) then (r.toNat : Int) else r.toNat - 2 ^ b := by
  have hhalf : 2 * r.toNat < 2 ^ b ↔ r.toNat < 2 ^ (b - 1) := by rw [two_pow_eq_two_mul hb]; omega
  rw [Reg.signedValue, BitVec.toInt_eq_toNat_cond, Nat.cast_pow, Nat.cast_ofNat]
  simp only [hhalf]

/-- The sign bit is set exactly in the upper half of the range. -/
theorem leftmost_iff {b : Nat} (r : BitVec b) : Reg.leftmost r = true ↔ 2 ^ (b - 1) ≤ r.toNat := by
  have hmsb : Reg.leftmost r = r.msb := by rw [BitVec.msb_eq_getLsbD_last]; rfl
  rw [hmsb, BitVec.msb_eq_decide, decide_eq_true_eq]

/-- Bit 0 is the parity of the raw value. -/
theorem rightmost_iff {b : Nat} (r : BitVec b) : Reg.rightmost r = true ↔ r.toNat % 2 = 1 := by
  rw [Reg.rightmost, BitVec.getLsbD, Nat.testBit_zero, decide_eq_true_eq]

/-- Settles O48. -/
theorem derivedQuantities : Obligations.DerivedQuantities := fun _ r hb =>
  ⟨signedValue_eq_ite hb r, leftmost_iff r, rightmost_iff r, rfl, rfl, rfl, rfl, rfl, rfl⟩

theorem toNat_inc {b : Nat} (r : BitVec b) : (Reg.inc r).toNat = (r.toNat + 1) % 2 ^ b :=
  (BitVec.toNat_add r 1).trans (Nat.add_mod_mod _ _ _)

/-- `dec` is `set` of one less. -/
theorem dec_eq_set {b : Nat} (r : BitVec b) : Reg.dec r = Reg.set b (r.toNat - 1) := by
  rw [Reg.dec, Reg.set, Int.sub_eq_add_neg, BitVec.ofInt_add, BitVec.ofInt_natCast, BitVec.ofNat_toNat,
    BitVec.setWidth_eq, BitVec.ofInt_neg, BitVec.ofInt_ofNat, BitVec.sub_eq_add_neg]
  rfl

/-- The least value, like 0, is its own negation (R32). -/
theorem neg_eq_self_of_toNat_eq_two_pow {b : Nat} (hb : 0 < b) {r : BitVec b} (hr : r.toNat = 2 ^ (b - 1)) :
    Reg.neg r = r := by
  have htwo := two_pow_eq_two_mul hb
  have hpos : 0 < 2 ^ (b - 1) := Nat.two_pow_pos _
  apply BitVec.eq_of_toNat_eq
  rw [Reg.neg, BitVec.toNat_neg, hr, Nat.mod_eq_of_lt] <;> omega

theorem neg_eq_self_of_toNat_eq_zero {b : Nat} {r : BitVec b} (hr : r.toNat = 0) : Reg.neg r = r := by
  have hzero : r = 0#b := BitVec.eq_of_toNat_eq (by rw [hr, BitVec.toNat_zero])
  rw [hzero]
  exact BitVec.neg_zero b

/-- Settles O49. -/
theorem transfersAndStepsWrap : Obligations.TransfersAndStepsWrap := fun _ v r =>
  ⟨BitVec.toNat_setWidth v r, BitVec.toNat_setWidth_of_le, toNat_inc r, dec_eq_set r ▸ toNat_set _ _,
    BitVec.toNat_neg r, fun hb => neg_eq_self_of_toNat_eq_two_pow hb, neg_eq_self_of_toNat_eq_zero⟩

theorem toNat_apply_shiftLeft {b : Nat} (r : BitVec b) (n : Nat) :
    (Reg.apply .shiftLeft r n).toNat = r.toNat * 2 ^ n % 2 ^ b := by
  rw [← toNat_set_natCast, Nat.cast_mul, Nat.cast_pow]
  rfl

/-- The logical right shift (D22) needs no mask: the quotient fits the width. -/
theorem toNat_apply_shiftRight {b : Nat} (r : BitVec b) (n : Nat) :
    (Reg.apply .shiftRight r n).toNat = r.toNat / 2 ^ n := by
  have hlt : r.toNat / 2 ^ n < 2 ^ b := (Nat.div_le_self _ _).trans_lt r.isLt
  rw [← Nat.mod_eq_of_lt hlt, ← toNat_set_natCast]
  rfl

/-- Settles O50: plus and minus are `set` of the exact result, the bitwise operators act bit by bit. -/
theorem operatorsMask : Obligations.OperatorsMask := fun b r _ =>
  ⟨toNat_set b _, toNat_set b _, fun _ => BitVec.getLsbD_and, fun _ => BitVec.getLsbD_or,
    fun _ => BitVec.getLsbD_xor, fun n => ⟨toNat_apply_shiftLeft r n, toNat_apply_shiftRight r n⟩⟩

end Sys2Proof.Machine
end

section
/-! SUPPORT. What an operation that may raise a fault did when it completed, an equivalence each; from these, what a
completed instruction and a completed cycle leave unchanged (spec/10_state.md R20, R27, R36, R38). -/

namespace Sys2Proof.Machine

theorem commitAc_eq_next {r : Int} {s t : State} :
    commitAc r s = .next t ↔ Reg.willOverflow 13 r = false ∧ t = { s with ac := Reg.set 13 r } := by
  cases hr : Reg.willOverflow 13 r
  · simp [commitAc_in hr, eq_comm]
  · simp [commitAc_out hr]

theorem commitAcRelative_eq_next {r : Int} {e s t : State} :
    commitAcRelative r e s = .next t ↔ Reg.willOverflow 13 r = false ∧ t = { s with ac := Reg.set 13 r } := by
  cases hr : Reg.willOverflow 13 r
  · simp [commitAcRelative_in hr, eq_comm]
  · simp [commitAcRelative_out hr]

theorem withRelative_eq_next {b x : Addr} {e t : State} {k : State → Result} :
    withRelative b x e k = .next t ↔ b.toNat + x.toNat ≤ 127 ∧ k { e with ar := b + x } = .next t := by
  by_cases hx : b.toNat + x.toNat ≤ 127
  · simp [withRelative_in hx, hx]
  · simp [withRelative_out hx, hx]

theorem relativeLoad_eq_next {b x : Addr} {e t : State} :
    relativeLoad b x e = .next t ↔ b.toNat + x.toNat ≤ 127 ∧
      t = { e with ar := b + x, dr := e.cell (b + x), ac := e.cell (b + x) } := by
  rw [relativeLoad, withRelative_eq_next, Host.Outcome.next.injEq, eq_comm (b := t)]
  rfl

theorem relativeStore_eq_next {b x : Addr} {e t : State} :
    relativeStore b x e = .next t ↔ b.toNat + x.toNat ≤ 127 ∧
      t = { e with ar := b + x, dr := e.ac, mem := Memory.write e.mem (b + x).toNat e.ac } := by
  rw [relativeStore, withRelative_eq_next, Host.Outcome.next.injEq, eq_comm (b := t)]
  rfl

theorem relativeOut_eq_next {b x : Addr} {e t : State} :
    relativeOut b x e = .next t ↔ b.toNat + x.toNat ≤ 127 ∧
      t = { e with ar := b + x, dr := e.cell (b + x), output := e.output ++ [(e.cell (b + x)).toInt] } := by
  rw [relativeOut, withRelative_eq_next, Host.Outcome.next.injEq, eq_comm (b := t)]
  rfl

theorem relativeAdd_eq_next {b x : Addr} {e t : State} :
    relativeAdd b x e = .next t ↔ b.toNat + x.toNat ≤ 127 ∧
      Reg.willOverflow 13 (e.ac.toInt + (e.cell (b + x)).toInt) = false ∧
      t = { e with ar := b + x, dr := e.cell (b + x), ac := Reg.set 13 (e.ac.toInt + (e.cell (b + x)).toInt) } := by
  rw [relativeAdd, withRelative_eq_next, commitAcRelative_eq_next]
  rfl

theorem relativeSub_eq_next {b x : Addr} {e t : State} :
    relativeSub b x e = .next t ↔ b.toNat + x.toNat ≤ 127 ∧
      Reg.willOverflow 13 (e.ac.toInt - (e.cell (b + x)).toInt) = false ∧
      t = { e with ar := b + x, dr := e.cell (b + x), ac := Reg.set 13 (e.ac.toInt - (e.cell (b + x)).toInt) } := by
  rw [relativeSub, withRelative_eq_next, commitAcRelative_eq_next]
  rfl

theorem relativeIn_eq_next {b x : Addr} {e t : State} :
    relativeIn b x e = .next t ↔ b.toNat + x.toNat ≤ 127 ∧ ∃ v rest, e.input = v :: rest ∧
      t = { e with
        ar := b + x, dr := Reg.set 13 v, mem := Memory.write e.mem (b + x).toNat (Reg.set 13 v), input := rest } := by
  rw [relativeIn, withRelative_eq_next]
  cases e.input with
  | nil => simp [raise_eq]
  | cons v rest =>
    refine and_congr_right fun _ => ⟨fun h => ⟨v, rest, rfl, (Host.Outcome.next.inj h).symm⟩, ?_⟩
    rintro ⟨_, _, ⟨⟩, rfl⟩
    rfl

/-- INM without input halts; with input it stores the next value (R161). -/
theorem execInm_eq_next {a : Addr} {s t : State} :
    execInm a s = .next t ↔
      (s.input = [] ∧ t = { s with ar := a, dr := s.cell a, running := false, lastEnd := .halted }) ∨
      ∃ v rest, s.input = v :: rest ∧ t = { s with
        ar := a, dr := Reg.set 13 v, mem := Memory.write s.mem a.toNat (Reg.set 13 v), input := rest } := by
  rw [execInm, State.operandFetch_eq]
  cases s.input with
  | nil =>
    refine ⟨fun h => .inl ⟨rfl, (Host.Outcome.next.inj h).symm⟩, ?_⟩
    rintro (⟨-, rfl⟩ | ⟨_, _, ⟨⟩, -⟩)
    rfl
  | cons v rest =>
    refine ⟨fun h => .inr ⟨v, rest, rfl, (Host.Outcome.next.inj h).symm⟩, ?_⟩
    rintro (⟨⟨⟩, -⟩ | ⟨_, _, ⟨⟩, rfl⟩)
    rfl

/-! ### What a completed instruction writes -/

/-- The instruction halts the machine: END, or INM without input (R161, R162). -/
def Halts (i : Instr) (s : State) : Prop := ∃ a, i = .endd a ∨ (i = .inm a ∧ s.input = [])

/-- The instructions R20's table lets write AC. -/
def WritesAc (i : Instr) : Prop :=
  ∃ a, i ∈ [.lda a, .add a, .sub a, .pop a, .neg a, .inc a, .dec a, .ldas a, .adds a, .subs a, .ldab a, .addb a,
    .subb a]

/-- The instructions R20's table and R27 let write SP. -/
def WritesSp (i : Instr) : Prop :=
  ∃ a, i ∈ [.jsr a, .rtn a, .psh a, .pop a, .pshm a, .popm a, .pshb a, .popb a, .bpsp a]

/-- The instructions R20's table and R27 let write BP. -/
def WritesBp (i : Instr) : Prop := ∃ a, i ∈ [.spbp a, .popb a]

/-- What the completed instruction `i` may have done, from `s` to `t`, to AC, the two pointers, the running flag and the
breakpoint set. A field left out of a proof of it is one the instruction leaves as it was. -/
structure ExecFrame (i : Instr) (s t : State) : Prop where
  ac : t.ac = s.ac ∨ WritesAc i := by exact .inl rfl
  sp : t.sp = s.sp ∨ WritesSp i := by exact .inl rfl
  bp : t.bp = s.bp ∨ WritesBp i := by exact .inl rfl
  running : t.running = s.running ∨ (t.running = false ∧ Halts i s) := by exact .inl rfl
  breakpoints : t.breakpoints = s.breakpoints := by rfl

/-- One case per way an instruction completes: straight on, by a jump, by a commit, at a relative address, on input. -/
theorem execFrame {i : Instr} {s t : State} (h : exec i s = .next t) : ExecFrame i s t := by
  cases i
  case sta a | out a | nop a | defLow _ a | defHigh _ a =>
    obtain rfl := Host.Outcome.next.inj h
    exact {}
  case jmp a | jms a | jpl a | jze a | jnm a | jnp a | jnz a =>
    obtain rfl := Host.Outcome.next.inj h
    rw [State.jumpIf_eq]
    exact {}
  case lda a | neg a =>
    obtain rfl := Host.Outcome.next.inj h
    exact { ac := .inr ⟨a, by simp⟩ }
  case add a | sub a | inc a | dec a =>
    obtain ⟨-, rfl⟩ := commitAc_eq_next.1 h
    exact { ac := .inr ⟨a, by simp⟩ }
  case ldas x | ldab x =>
    obtain ⟨-, rfl⟩ := relativeLoad_eq_next.1 h
    exact { ac := .inr ⟨x, by simp⟩ }
  case adds x | addb x =>
    obtain ⟨-, -, rfl⟩ := relativeAdd_eq_next.1 h
    exact { ac := .inr ⟨x, by simp⟩ }
  case subs x | subb x =>
    obtain ⟨-, -, rfl⟩ := relativeSub_eq_next.1 h
    exact { ac := .inr ⟨x, by simp⟩ }
  case stas x | stab x =>
    obtain ⟨-, rfl⟩ := relativeStore_eq_next.1 h
    exact {}
  case outs x | outb x =>
    obtain ⟨-, rfl⟩ := relativeOut_eq_next.1 h
    exact {}
  case ins x | inb x =>
    obtain ⟨-, _, _, -, rfl⟩ := relativeIn_eq_next.1 h
    exact {}
  case jsr a | rtn a | psh a | pshm a | pshb a | popm a | bpsp a =>
    obtain rfl := Host.Outcome.next.inj h
    exact { sp := .inr ⟨a, by simp⟩ }
  case pop a =>
    obtain rfl := Host.Outcome.next.inj h
    exact { ac := .inr ⟨a, by simp⟩, sp := .inr ⟨a, by simp⟩ }
  case spbp a =>
    obtain rfl := Host.Outcome.next.inj h
    exact { bp := .inr ⟨a, by simp⟩ }
  case popb a =>
    obtain rfl := Host.Outcome.next.inj h
    exact { sp := .inr ⟨a, by simp⟩, bp := .inr ⟨a, by simp⟩ }
  case endd a =>
    obtain rfl := Host.Outcome.next.inj h
    exact { running := .inr ⟨rfl, a, .inl rfl⟩ }
  case inm a =>
    obtain ⟨hin, rfl⟩ | ⟨_, _, -, rfl⟩ := execInm_eq_next.1 h
    · exact { running := .inr ⟨rfl, a, .inr ⟨rfl, hin⟩⟩ }
    · exact {}

/-- Settles O15, by the frame of a completed instruction. -/
theorem onlyListedInstructionsWriteAc : Obligations.OnlyListedInstructionsWriteAc := fun _ _ _ h =>
  (execFrame h).ac

/-- Settles O16, by the frame of a completed instruction. -/
theorem onlyListedInstructionsWritePointers : Obligations.OnlyListedInstructionsWritePointers := fun _ _ _ h =>
  ⟨(execFrame h).sp, (execFrame h).bp⟩

/-! ### The running flag over a cycle -/

/-- The immediate a word decodes with is its immediate field, whatever the opcode. -/
theorem imm_decode (w : Word) : (decode w).imm = immField w := by
  have himm (opc : Opcode) (imm : Addr) : (decodeFields opc imm).imm = imm := by
    unfold decodeFields
    split
    case' h_41 => split
    all_goals rfl
  exact himm _ _

theorem imm_of_decode_eq {w : Word} {i : Instr} (h : decode w = i) : immField w = i.imm := by
  rw [← h, imm_decode]

/-- Settles O11: the flag falls in the instruction or in the breakpoint check, and rises in neither. -/
theorem runningFlagIsOnlyCleared : Obligations.RunningFlagIsOnlyCleared := by
  intro s t hstep
  obtain ⟨u, hexec, rfl⟩ := step_eq_next.1 hstep
  have hframe := execFrame hexec
  have hbps : u.breakpoints = s.breakpoints := hframe.breakpoints
  obtain ⟨-, hhit, hcheck⟩ | ⟨-, hcheck⟩ := u.checkBreakpoint_cases <;> rw [hcheck]
  · exact ⟨nofun, fun _ _ => .inr (.inr (hbps ▸ hhit)), hbps⟩
  · obtain hkept | ⟨hclear, a, hend | ⟨hinm, hin⟩⟩ := hframe.running
    · have hkept : u.running = s.running := hkept
      exact ⟨fun hu => hkept ▸ hu, fun hs hu => absurd (hkept.trans hs) (by simp [hu]), hbps⟩
    · have himm := imm_of_decode_eq hend
      exact ⟨fun hu => absurd hu (by simp [hclear]), fun _ _ => .inl (himm ▸ hend), hbps⟩
    · have himm := imm_of_decode_eq hinm
      exact ⟨fun hu => absurd hu (by simp [hclear]), fun _ _ => .inr (.inl ⟨himm ▸ hinm, hin⟩), hbps⟩

end Sys2Proof.Machine
end

section
/-! SUPPORT. Fields a cycle does not read (spec/10_state.md R42, R43): the scratch registers and the return-address set.
An instruction run on a state with another return-address set answers what it answers on the state itself, with that
set in the answer's state. -/

namespace Sys2Proof.Machine

/-- Settles O9: the fetch writes AR, DR, IR and lastEnd before anything reads them. -/
theorem scratchRegistersAreNotRead : Obligations.ScratchRegistersAreNotRead := by
  intro s ir dr ar e
  have hfetch : State.fetch { s with ir := ir, dr := dr, ar := ar, lastEnd := e } = s.fetch := by
    rw [State.fetch_eq, State.fetch_eq]
  rw [step, hfetch, step]

/-! ### The return-address set -/

/-- The result with `rs` as the return-address set of the state it carries. -/
def withRaSet (rs : AddrSet) : Result → Result
  | .next t => .next (t.setRaSet rs)
  | .fault f => .fault (faultOf (faultKind f) ((faultState f).setRaSet rs))
  | .refused r => .refused r

section
variable (rs : AddrSet)

theorem raise_setRaSet (k : FaultKind) (s : State) : raise k (s.setRaSet rs) = withRaSet rs (raise k s) := by
  cases k <;> rfl

theorem commitAc_setRaSet (r : Int) (s : State) : commitAc r (s.setRaSet rs) = withRaSet rs (commitAc r s) := by
  unfold commitAc
  split
  · exact raise_setRaSet rs _ s
  · rfl

theorem commitAcRelative_setRaSet (r : Int) (e s : State) :
    commitAcRelative r (e.setRaSet rs) (s.setRaSet rs) = withRaSet rs (commitAcRelative r e s) := by
  unfold commitAcRelative
  split
  · exact raise_setRaSet rs .overflow (scratchAtFault e s)
  · rfl

theorem withRelative_setRaSet {k k' : State → Result} (b x : Addr) (e : State)
    (hk : ∀ m, k' (m.setRaSet rs) = withRaSet rs (k m)) :
    withRelative b x (e.setRaSet rs) k' = withRaSet rs (withRelative b x e k) := by
  unfold withRelative
  split
  · exact raise_setRaSet rs _ e
  · exact hk (e.setAr _)

theorem jumpIf_setRaSet (s : State) (c : Cond) : (s.setRaSet rs).jumpIf c = (s.jumpIf c).setRaSet rs := by
  rw [State.jumpIf_eq, State.jumpIf_eq]
  rfl

theorem checkBreakpoint_setRaSet (s : State) :
    (s.setRaSet rs).checkBreakpoint = s.checkBreakpoint.setRaSet rs := by
  unfold State.checkBreakpoint
  rw [apply_ite (State.setRaSet · rs)]
  rfl

theorem relativeLoad_setRaSet (b x : Addr) (e : State) :
    relativeLoad b x (e.setRaSet rs) = withRaSet rs (relativeLoad b x e) :=
  withRelative_setRaSet rs b x e fun _ => rfl

theorem relativeStore_setRaSet (b x : Addr) (e : State) :
    relativeStore b x (e.setRaSet rs) = withRaSet rs (relativeStore b x e) :=
  withRelative_setRaSet rs b x e fun _ => rfl

theorem relativeOut_setRaSet (b x : Addr) (e : State) :
    relativeOut b x (e.setRaSet rs) = withRaSet rs (relativeOut b x e) :=
  withRelative_setRaSet rs b x e fun _ => rfl

theorem relativeAdd_setRaSet (b x : Addr) (e : State) :
    relativeAdd b x (e.setRaSet rs) = withRaSet rs (relativeAdd b x e) :=
  withRelative_setRaSet rs b x e fun m => commitAcRelative_setRaSet rs _ e m.memRead

theorem relativeSub_setRaSet (b x : Addr) (e : State) :
    relativeSub b x (e.setRaSet rs) = withRaSet rs (relativeSub b x e) :=
  withRelative_setRaSet rs b x e fun m => commitAcRelative_setRaSet rs _ e m.memRead

theorem relativeIn_setRaSet (b x : Addr) (e : State) :
    relativeIn b x (e.setRaSet rs) = withRaSet rs (relativeIn b x e) := by
  apply withRelative_setRaSet
  intro m
  rw [State.setRaSet_input]
  split
  · exact raise_setRaSet rs _ (scratchAtFault e m)
  · rfl

theorem execInm_setRaSet (a : Addr) (s : State) : execInm a (s.setRaSet rs) = withRaSet rs (execInm a s) := by
  simp only [execInm, State.operandFetch_eq, State.setRaSet_input]
  cases s.input <;> rfl

/-- JSR and RTN only update the set; every other instruction carries it through. -/
theorem exec_setRaSet (i : Instr) (s : State) :
    exec i (s.setRaSet rs) = withRaSet rs (exec i s) ∨
    ∃ t rt, exec i s = .next t ∧ exec i (s.setRaSet rs) = .next (t.setRaSet rt) := by
  cases i
  case jsr a | rtn a => exact .inr ⟨_, _, rfl, rfl⟩
  all_goals left
  case jmp a | jms a | jpl a | jze a | jnm a | jnp a | jnz a =>
    exact congrArg _ (jumpIf_setRaSet rs (s.operandFetch a) _)
  case add a | sub a | inc a | dec a => exact commitAc_setRaSet rs _ (s.operandFetch a)
  case ldas x | ldab x => exact relativeLoad_setRaSet rs _ x (s.operandFetch x)
  case stas x | stab x => exact relativeStore_setRaSet rs _ x (s.operandFetch x)
  case adds x | addb x => exact relativeAdd_setRaSet rs _ x (s.operandFetch x)
  case subs x | subb x => exact relativeSub_setRaSet rs _ x (s.operandFetch x)
  case outs x | outb x => exact relativeOut_setRaSet rs _ x (s.operandFetch x)
  case ins x | inb x => exact relativeIn_setRaSet rs _ x (s.operandFetch x)
  case inm a => exact execInm_setRaSet rs a s
  all_goals rfl

end

/-- Settles O10: the fetch and the breakpoint check carry the set through, and so does what stands between. -/
theorem returnAddressSetIsNotRead : Obligations.ReturnAddressSetIsNotRead := by
  intro s rs
  have hexec := exec_setRaSet rs (decode s.fetch.ir) s.fetch
  constructor
  · intro t hstep
    obtain ⟨u, hu, rfl⟩ := step_eq_next.1 hstep
    obtain h | ⟨_, rt, hu', h⟩ := hexec
    · refine ⟨rs, step_eq_next.2 ⟨u.setRaSet rs, ?_, (checkBreakpoint_setRaSet rs u).symm⟩⟩
      exact h.trans (by rw [hu]; rfl)
    · cases Host.Outcome.next.inj (hu.symm.trans hu')
      exact ⟨rt, step_eq_next.2 ⟨u.setRaSet rt, h, (checkBreakpoint_setRaSet rt u).symm⟩⟩
  · intro f hstep
    have hf := step_eq_fault.1 hstep
    obtain h | ⟨_, _, hnext, -⟩ := hexec
    · exact step_eq_fault.2 (h.trans (by rw [hf]; rfl))
    · simp [hf] at hnext

/-! ### The reset state -/

/-- Settles O44: memory, both sets and the output are empty. -/
theorem resetStateIsCanonical : Obligations.ResetStateIsCanonical :=
  ⟨rfl, rfl, rfl, fun _ hmem => absurd hmem List.not_mem_nil⟩

end Sys2Proof.Machine
end

section
/-! SUPPORT. The canonical form of the machine's data over a cycle (spec/20_memory.md R60 to R65): what a completed
instruction does to memory, the return-address set and the output, and which fields a fault leaves as they were. -/

namespace Sys2Proof.Machine

/-! ### Memory -/

theorem Memory.read_write_same (m : Memory) (a : Nat) (v : Word) : Memory.read (Memory.write m a v) a = v :=
  (Memory.read_write m a a v).trans (if_pos rfl)

/-- Settles O41: the fetch reads the cell STA has just written. -/
theorem storedWordIsFetchedNext : Obligations.StoredWordIsFetchedNext := fun s =>
  ⟨_, rfl, Memory.read_write_same s.mem s.pc.toNat s.ac, rfl⟩

/-! ### What a completed instruction stores, records and shows -/

/-- The instructions R64 lets write memory. -/
def WritesMemory (i : Instr) : Prop :=
  ∃ a, i ∈ [.sta a, .jsr a, .psh a, .pshm a, .popm a, .inm a, .stas a, .stab a, .pshb a, .ins a, .inb a]

/-- What the completed instruction `i` may have done, from `s` to `t`, to the data `State.Inv` speaks of; the breakpoint
set is in `ExecFrame`. A field left out of a proof of it is one the instruction leaves as it was. -/
structure ExecDataFrame (i : Instr) (s t : State) : Prop where
  mem : t.mem = s.mem ∨ (WritesMemory i ∧ ∃ (a : Addr) (v : Word), t.mem = Memory.write s.mem a.toNat v) := by
    exact .inl rfl
  raSet : t.raSet = s.raSet ∨ ∃ a, t.raSet = AddrSet.add s.raSet a ∨ t.raSet = AddrSet.remove s.raSet a := by
    exact .inl rfl
  output : t.output = s.output ∨ ∃ w : Word, t.output = s.output ++ [Reg.signedValue w] := by exact .inl rfl

/-- One case per kind of data the instruction touches, and per way it completes. -/
theorem execDataFrame {i : Instr} {s t : State} (h : exec i s = .next t) : ExecDataFrame i s t := by
  cases i
  case lda a | pop a | popb a | nop a | neg a | spbp a | bpsp a | endd a | defLow _ a | defHigh _ a =>
    obtain rfl := Host.Outcome.next.inj h
    exact {}
  case jmp a | jms a | jpl a | jze a | jnm a | jnp a | jnz a =>
    obtain rfl := Host.Outcome.next.inj h
    rw [State.jumpIf_eq]
    exact {}
  case add a | sub a | inc a | dec a =>
    obtain ⟨-, rfl⟩ := commitAc_eq_next.1 h
    exact {}
  case ldas x | ldab x =>
    obtain ⟨-, rfl⟩ := relativeLoad_eq_next.1 h
    exact {}
  case adds x | addb x =>
    obtain ⟨-, -, rfl⟩ := relativeAdd_eq_next.1 h
    exact {}
  case subs x | subb x =>
    obtain ⟨-, -, rfl⟩ := relativeSub_eq_next.1 h
    exact {}
  case out a =>
    obtain rfl := Host.Outcome.next.inj h
    exact { output := .inr ⟨_, rfl⟩ }
  case outs x | outb x =>
    obtain ⟨-, rfl⟩ := relativeOut_eq_next.1 h
    exact { output := .inr ⟨_, rfl⟩ }
  case sta a | psh a | pshm a | popm a | pshb a =>
    obtain rfl := Host.Outcome.next.inj h
    exact { mem := .inr ⟨⟨a, by simp⟩, _, _, rfl⟩ }
  case stas x | stab x =>
    obtain ⟨-, rfl⟩ := relativeStore_eq_next.1 h
    exact { mem := .inr ⟨⟨x, by simp⟩, _, _, rfl⟩ }
  case ins x | inb x =>
    obtain ⟨-, _, _, -, rfl⟩ := relativeIn_eq_next.1 h
    exact { mem := .inr ⟨⟨x, by simp⟩, _, _, rfl⟩ }
  case inm a =>
    obtain ⟨-, rfl⟩ | ⟨_, _, -, rfl⟩ := execInm_eq_next.1 h
    · exact {}
    · exact { mem := .inr ⟨⟨a, by simp⟩, _, _, rfl⟩ }
  case jsr a =>
    obtain rfl := Host.Outcome.next.inj h
    exact { mem := .inr ⟨⟨a, by simp⟩, _, _, rfl⟩, raSet := .inr ⟨_, .inl rfl⟩ }
  case rtn a =>
    obtain rfl := Host.Outcome.next.inj h
    exact { raSet := .inr ⟨_, .inr rfl⟩ }

/-- Settles O14, by the frame of a completed instruction. -/
theorem onlyElevenInstructionsWriteMemory : Obligations.OnlyElevenInstructionsWriteMemory := by
  intro i s t h
  obtain hkept | ⟨hwrites, -⟩ := (execDataFrame h).mem
  · exact .inl fun _ => by rw [hkept]
  · exact .inr hwrites

/-! ### What a fault leaves as it was -/

theorem commitAc_eq_fault {r : Int} {s : State} {f : Fault} :
    commitAc r s = .fault f ↔ Reg.willOverflow 13 r = true ∧ f = .overflow { s with lastEnd := .faulted } := by
  cases hr : Reg.willOverflow 13 r
  · simp [commitAc_in hr]
  · simp [commitAc_out hr, eq_comm]

theorem commitAcRelative_eq_fault {r : Int} {e s : State} {f : Fault} :
    commitAcRelative r e s = .fault f ↔
      Reg.willOverflow 13 r = true ∧ f = .overflow { scratchAtFault e s with lastEnd := .faulted } := by
  cases hr : Reg.willOverflow 13 r
  · simp [commitAcRelative_in hr]
  · simp [commitAcRelative_out hr, eq_comm]

theorem withRelative_eq_fault {b x : Addr} {e : State} {k : State → Result} {f : Fault} :
    withRelative b x e k = .fault f ↔
      (¬b.toNat + x.toNat ≤ 127 ∧ f = .invalidAddress { e with lastEnd := .faulted }) ∨
      (b.toNat + x.toNat ≤ 127 ∧ k { e with ar := b + x } = .fault f) := by
  by_cases hx : b.toNat + x.toNat ≤ 127
  · simp [withRelative_in hx, hx]
  · simp [withRelative_out hx, hx, eq_comm]

/-- `t` is `s` up to AR, DR and the two fields of the model: all that an instruction that faults may have written. -/
def FaultFrame (s t : State) : Prop :=
  ∃ ar dr n, t = { s with ar := ar, dr := dr, lastEnd := .faulted, draws := n }

/-- The operand fetch itself writes AR and DR only (R103). -/
theorem FaultFrame.of_operandFetch {s t : State} (a : Addr) (h : FaultFrame (s.operandFetch a) t) : FaultFrame s t := h

theorem scratchAtFault_faultFrame (e m : State) : FaultFrame m { scratchAtFault e m with lastEnd := .faulted } := by
  obtain h | h := scratchAtFault_cases e m <;> rw [h] <;> exact ⟨_, _, _, rfl⟩

theorem commitAc_faultFrame {r : Int} {s : State} {f : Fault} (h : commitAc r s = .fault f) :
    FaultFrame s (faultState f) := by
  obtain ⟨-, rfl⟩ := commitAc_eq_fault.1 h
  exact ⟨_, _, _, rfl⟩

theorem commitAcRelative_faultFrame {r : Int} {e s : State} {f : Fault} (h : commitAcRelative r e s = .fault f) :
    FaultFrame s (faultState f) := by
  obtain ⟨-, rfl⟩ := commitAcRelative_eq_fault.1 h
  exact scratchAtFault_faultFrame e s

theorem withRelative_faultFrame {b x : Addr} {e : State} {k : State → Result} {f : Fault}
    (h : withRelative b x e k = .fault f)
    (hk : k { e with ar := b + x } = .fault f → FaultFrame { e with ar := b + x } (faultState f)) :
    FaultFrame e (faultState f) := by
  obtain ⟨-, rfl⟩ | ⟨-, hf⟩ := withRelative_eq_fault.1 h
  · exact ⟨_, _, _, rfl⟩
  · exact hk hf

section
variable {b x : Addr} {e : State} {f : Fault}

theorem relativeLoad_faultFrame (h : relativeLoad b x e = .fault f) : FaultFrame e (faultState f) :=
  withRelative_faultFrame h nofun

theorem relativeStore_faultFrame (h : relativeStore b x e = .fault f) : FaultFrame e (faultState f) :=
  withRelative_faultFrame h nofun

theorem relativeOut_faultFrame (h : relativeOut b x e = .fault f) : FaultFrame e (faultState f) :=
  withRelative_faultFrame h nofun

theorem relativeAdd_faultFrame (h : relativeAdd b x e = .fault f) : FaultFrame e (faultState f) :=
  withRelative_faultFrame h commitAcRelative_faultFrame

theorem relativeSub_faultFrame (h : relativeSub b x e = .fault f) : FaultFrame e (faultState f) :=
  withRelative_faultFrame h commitAcRelative_faultFrame

theorem relativeIn_faultFrame (h : relativeIn b x e = .fault f) : FaultFrame e (faultState f) := by
  refine withRelative_faultFrame h fun hk => ?_
  cases hin : e.input <;> simp only [hin] at hk
  case nil =>
    obtain rfl := Host.Outcome.fault.inj hk
    exact scratchAtFault_faultFrame e _
  case cons v rest => exact nomatch hk

end

theorem execInm_ne_fault {a : Addr} {s : State} {f : Fault} : execInm a s ≠ .fault f := by
  rw [execInm, State.operandFetch_eq]
  cases s.input <;> exact nofun

/-- Checked arithmetic and the relative instructions can fault, no other; at a fault none of them has written anything
but AR, DR and the model's own fields (R265). -/
theorem exec_faultFrame {i : Instr} {s : State} {f : Fault} (h : exec i s = .fault f) :
    FaultFrame s (faultState f) := by
  cases i
  case add a | sub a | inc a | dec a => exact .of_operandFetch a (commitAc_faultFrame h)
  case ldas x | ldab x => exact .of_operandFetch x (relativeLoad_faultFrame h)
  case stas x | stab x => exact .of_operandFetch x (relativeStore_faultFrame h)
  case outs x | outb x => exact .of_operandFetch x (relativeOut_faultFrame h)
  case adds x | addb x => exact .of_operandFetch x (relativeAdd_faultFrame h)
  case subs x | subb x => exact .of_operandFetch x (relativeSub_faultFrame h)
  case ins x | inb x => exact .of_operandFetch x (relativeIn_faultFrame h)
  case inm a => exact absurd h execInm_ne_fault
  all_goals exact nomatch h

/-! ### The canonical form over a cycle -/

/-- Every value shown is the signed reading of a word, and so within a word's signed range. -/
theorem output_append_mem_range {vs : List Int} (w : Word) (hvs : ∀ v ∈ vs, -4096 ≤ v ∧ v ≤ 4095) :
    ∀ v ∈ vs ++ [Reg.signedValue w], -4096 ≤ v ∧ v ≤ 4095 :=
  List.forall_mem_append.2
    ⟨hvs, List.forall_mem_singleton.2 ⟨minSigned_le_signedValue w, signedValue_le_maxSigned w⟩⟩

/-- A completed instruction keeps the canonical form, piece by piece. -/
theorem exec_next_inv {i : Instr} {s t : State} (hs : s.Inv) (h : exec i s = .next t) : t.Inv := by
  obtain ⟨hmem, hra, hbps, hout⟩ := hs
  have hframe := execDataFrame h
  refine ⟨?_, ?_, ?_, ?_⟩
  · obtain hm | ⟨-, a, v, hm⟩ := hframe.mem <;> rw [hm]
    · exact hmem
    · exact Memory.wf_write_addr a v hmem
  · obtain hr | ⟨a, hr | hr⟩ := hframe.raSet <;> rw [hr]
    · exact hra
    · exact AddrSet.wf_add a hra
    · exact AddrSet.wf_remove a hra
  · rw [(execFrame h).breakpoints]
    exact hbps
  · obtain ho | ⟨w, ho⟩ := hframe.output <;> rw [ho]
    · exact hout
    · exact output_append_mem_range w hout

theorem FaultFrame.inv {s t : State} (h : FaultFrame s t) (hs : s.Inv) : t.Inv := by
  obtain ⟨_, _, _, rfl⟩ := h
  exact hs

theorem State.fetch_inv {s : State} (hs : s.Inv) : s.fetch.Inv := hs

theorem State.checkBreakpoint_inv {s : State} (hs : s.Inv) : s.checkBreakpoint.Inv := by
  obtain ⟨-, -, h⟩ | ⟨-, h⟩ := s.checkBreakpoint_cases <;> rw [h] <;> exact hs

/-- Settles O45: the fetch, the instruction, whether it completes or faults, and the breakpoint check each keep the
canonical form. -/
theorem stepKeepsCanonicalForm : Obligations.StepKeepsCanonicalForm := by
  intro s hs
  have hfetch := State.fetch_inv hs
  constructor
  · intro t hstep
    obtain ⟨u, hexec, rfl⟩ := step_eq_next.1 hstep
    exact State.checkBreakpoint_inv (exec_next_inv hfetch hexec)
  · intro f hstep
    exact (exec_faultFrame (step_eq_fault.1 hstep)).inv hfetch

end Sys2Proof.Machine
end

section
/-! SUPPORT. The one word format and the decoder (spec/30_encoding.md R80 to R89): the two fields as numbers, what the
opcode selects, and that words and well-formed instructions are in bijection. -/

namespace Sys2Proof.Machine

open Sys2Proof.Laws

/-- Settles O1, by evaluating the decoder on the fourteen words. -/
theorem writtenOutWordsDecode : Obligations.WrittenOutWordsDecode := by
  unfold Obligations.WrittenOutWordsDecode
  decide

/-! ### The two fields -/

theorem toNat_opcodeField (w : Word) : (opcodeField w).toNat = w.toNat / 128 := by
  rw [opcodeField, BitVec.extractLsb'_toNat, Nat.shiftRight_eq_div_pow]
  omega

theorem toNat_immField (w : Word) : (immField w).toNat = w.toNat % 128 :=
  BitVec.extractLsb'_toNat ..

/-- Settles O4: both fields as numbers, and division with remainder. -/
theorem wordSplitsIntoFields : Obligations.WordSplitsIntoFields := by
  intro w
  refine ⟨toNat_opcodeField w, toNat_immField w, ?_⟩
  rw [toNat_opcodeField, toNat_immField, Nat.div_add_mod']

/-- The fields side by side are the word again. -/
theorem opcodeField_append_immField (w : Word) : opcodeField w ++ immField w = w := by
  have happend := BitVec.extractLsb'_append_extractLsb'_eq_extractLsb' (x := w) (len₂ := 6) (Nat.zero_add 7).symm
  exact happend.trans BitVec.extractLsb'_eq_self

theorem decode_encode_eq_decodeFields (i : Instr) : decode (encode i) = decodeFields i.opcode i.imm := by
  obtain ⟨hopc, himm⟩ := EncodeFields.fields_of_append i.opcode i.imm
  rw [decode, encode, hopc, himm]

/-! ### What the opcode selects -/

theorem wellFormed_defLow (opc : Opcode) (imm : Addr) :
    (Instr.defLow opc imm).wellFormed = true ↔ 40 ≤ opc.toNat ∧ opc.toNat ≤ 47 := by simp [Instr.wellFormed]

theorem wellFormed_defHigh (opc : Opcode) (imm : Addr) :
    (Instr.defHigh opc imm).wellFormed = true ↔ 48 ≤ opc.toNat := by simp [Instr.wellFormed]

/-- Opcodes 40 to 63 are data words, in two rows (R86). -/
theorem decodeFields_of_le {opc : Opcode} (h : 40 ≤ opc.toNat) (imm : Addr) :
    decodeFields opc imm = if opc.toNat < 48 then .defLow opc imm else .defHigh opc imm := by
  unfold decodeFields
  split
  case h_41 => rfl
  all_goals omega

/-- The opcode selects an instruction of that opcode, and a data word of the right row (R85, R86). -/
theorem decodeFields_opcode_wellFormed (opc : Opcode) (imm : Addr) :
    (decodeFields opc imm).opcode = opc ∧ (decodeFields opc imm).wellFormed = true := by
  by_cases hdef : 40 ≤ opc.toNat
  · rw [decodeFields_of_le hdef]
    split
    next hlow => exact ⟨rfl, (wellFormed_defLow opc imm).2 ⟨hdef, Nat.le_of_lt_succ hlow⟩⟩
    next hhigh => exact ⟨rfl, (wellFormed_defHigh opc imm).2 (not_lt.1 hhigh)⟩
  · rw [not_le] at hdef
    unfold decodeFields
    interval_cases hopc : opc.toNat
    all_goals exact ⟨BitVec.eq_of_toNat_eq hopc.symm, rfl⟩

theorem opcode_decode (w : Word) : (decode w).opcode = opcodeField w :=
  (decodeFields_opcode_wellFormed _ _).1

theorem wellFormed_decode (w : Word) : (decode w).wellFormed = true :=
  (decodeFields_opcode_wellFormed _ _).2

/-- A well-formed instruction is the one its own fields select. -/
theorem decodeFields_of_wellFormed {i : Instr} (h : i.wellFormed = true) : decodeFields i.opcode i.imm = i := by
  cases i
  case defLow opc imm =>
    obtain ⟨hlo, hhi⟩ := (wellFormed_defLow opc imm).1 h
    exact (decodeFields_of_le hlo imm).trans (if_pos (Nat.lt_succ_of_le hhi))
  case defHigh opc imm =>
    have hlo := (wellFormed_defHigh opc imm).1 h
    exact (decodeFields_of_le (le_trans (by decide) hlo) imm).trans (if_neg (not_lt.2 hlo))
  all_goals rfl

/-- Settles O2: the word of an instruction carries its fields, and they select it. -/
theorem decodeOfEncodeIsIdentity : Obligations.DecodeOfEncodeIsIdentity := fun i h =>
  (decode_encode_eq_decodeFields i).trans (decodeFields_of_wellFormed h)

/-- Settles O3: the decoder keeps both fields of the word. -/
theorem encodeOfDecodeIsIdentity : Obligations.EncodeOfDecodeIsIdentity := by
  intro w
  refine ⟨?_, wellFormed_decode w⟩
  rw [encode, opcode_decode, imm_decode, opcodeField_append_immField]

/-! ### The names of a word -/

theorem commandName_of_lt {w : Word} (h : (opcodeField w).toNat < tableMnemonics.length) :
    commandName w = tableMnemonics[(opcodeField w).toNat] :=
  List.getD_eq_getElem _ _ h

theorem commandName_of_le {w : Word} (h : tableMnemonics.length ≤ (opcodeField w).toNat) : commandName w = "DEF" :=
  List.getD_eq_default _ _ h

/-- A word decodes to a data word exactly when its opcode is past the table (R86). -/
theorem decode_eq_def_iff (w : Word) :
    (decode w = .defLow (opcodeField w) (immField w) ∨ decode w = .defHigh (opcodeField w) (immField w)) ↔
      40 ≤ (opcodeField w).toNat := by
  constructor
  · rintro (h | h)
    · exact ((wellFormed_defLow _ _).1 (h ▸ wellFormed_decode w)).1
    · exact le_trans (by decide) ((wellFormed_defHigh _ _).1 (h ▸ wellFormed_decode w))
  · intro h
    rw [decode, decodeFields_of_le h]
    split
    · exact .inl rfl
    · exact .inr rfl

/-- Settles O5: the name is looked up by the opcode, and 5120 is the first word of opcode 40. -/
theorem wordNamesFollowTheTable : Obligations.WordNamesFollowTheTable := by
  intro w
  refine ⟨commandName_of_lt, commandName_of_le, ?_⟩
  rw [decode_eq_def_iff, toNat_opcodeField, Nat.le_div_iff_mul_le (by decide)]

end Sys2Proof.Machine
end

section
/-! SUPPORT. No instruction is refused, and so no cycle is (spec/30_encoding.md R88). -/

namespace Sys2Proof.Machine

/-- The answer is a next state or a fault: no refusal. -/
def RunsOrFaults (r : Result) : Prop := (∃ t, r = .next t) ∨ ∃ f, r = .fault f

theorem RunsOrFaults.next (t : State) : RunsOrFaults (.next t) := .inl ⟨t, rfl⟩

theorem RunsOrFaults.raise (k : FaultKind) (s : State) : RunsOrFaults (raise k s) := .inr ⟨_, rfl⟩

theorem commitAc_runsOrFaults (r : Int) (s : State) : RunsOrFaults (commitAc r s) := by
  unfold commitAc
  split
  · exact .raise _ _
  · exact .next _

theorem commitAcRelative_runsOrFaults (r : Int) (e s : State) : RunsOrFaults (commitAcRelative r e s) := by
  unfold commitAcRelative
  split
  · exact .raise _ _
  · exact .next _

theorem withRelative_runsOrFaults {k : State → Result} (b x : Addr) (e : State) (hk : ∀ m, RunsOrFaults (k m)) :
    RunsOrFaults (withRelative b x e k) := by
  unfold withRelative
  split
  · exact .raise _ _
  · exact hk _

section
variable (b x : Addr) (e : State)

theorem relativeLoad_runsOrFaults : RunsOrFaults (relativeLoad b x e) :=
  withRelative_runsOrFaults b x e fun _ => .next _

theorem relativeStore_runsOrFaults : RunsOrFaults (relativeStore b x e) :=
  withRelative_runsOrFaults b x e fun _ => .next _

theorem relativeOut_runsOrFaults : RunsOrFaults (relativeOut b x e) :=
  withRelative_runsOrFaults b x e fun _ => .next _

theorem relativeAdd_runsOrFaults : RunsOrFaults (relativeAdd b x e) :=
  withRelative_runsOrFaults b x e fun _ => commitAcRelative_runsOrFaults _ _ _

theorem relativeSub_runsOrFaults : RunsOrFaults (relativeSub b x e) :=
  withRelative_runsOrFaults b x e fun _ => commitAcRelative_runsOrFaults _ _ _

theorem relativeIn_runsOrFaults : RunsOrFaults (relativeIn b x e) :=
  withRelative_runsOrFaults b x e fun m => by
    split
    · exact .raise _ _
    · exact .next _

end

theorem execInm_runsOrFaults (a : Addr) (s : State) : RunsOrFaults (execInm a s) := by
  unfold execInm
  dsimp only
  split
  · exact .next _
  · exact .next _

/-- One case per way an instruction ends: straight on, by a commit, at a relative address, on input. -/
theorem exec_runsOrFaults (i : Instr) (s : State) : RunsOrFaults (exec i s) := by
  cases i
  case add a | sub a | inc a | dec a => exact commitAc_runsOrFaults _ _
  case ldas x | ldab x => exact relativeLoad_runsOrFaults _ x _
  case stas x | stab x => exact relativeStore_runsOrFaults _ x _
  case outs x | outb x => exact relativeOut_runsOrFaults _ x _
  case adds x | addb x => exact relativeAdd_runsOrFaults _ x _
  case subs x | subb x => exact relativeSub_runsOrFaults _ x _
  case ins x | inb x => exact relativeIn_runsOrFaults _ x _
  case inm a => exact execInm_runsOrFaults a s
  all_goals exact .next _

/-- Settles O6: the cycle answers as its instruction does. -/
theorem everyWordRunsOrFaults : Obligations.EveryWordRunsOrFaults := by
  intro s
  obtain ⟨u, hu⟩ | ⟨f, hf⟩ := exec_runsOrFaults (decode s.fetch.ir) s.fetch
  · exact .inl ⟨_, step_eq_next.2 ⟨u, hu, rfl⟩⟩
  · exact .inr ⟨f, step_eq_fault.2 hf⟩

end Sys2Proof.Machine
end

section
/-! SUPPORT. The text of a command and its word (spec/30_encoding.md R90, R91, spec/49_assembler_and_loader.md R211,
R218): splitting at blanks, reading a number back from its decimal text, the opcode a mnemonic names. -/

namespace Sys2Proof.Machine

/-! ### Splitting at blanks -/

/-- A space ends the piece being read. -/
theorem splitBlanksFrom_append_space (t acc rest : Text) :
    splitBlanksFrom acc (t ++ ' ' :: rest) = splitBlanksFrom acc t ++ splitBlanks rest := by
  have hspace : isBlank ' ' = true := rfl
  induction t generalizing acc with
  | nil =>
    simp only [List.nil_append, splitBlanksFrom, hspace, if_true]
    split <;> rfl
  | cons c cs ih =>
    simp only [List.cons_append, splitBlanksFrom, ih]
    split
    · split <;> rfl
    · rfl

theorem splitBlanks_append_space (t rest : Text) :
    splitBlanks (t ++ ' ' :: rest) = splitBlanks t ++ splitBlanks rest :=
  splitBlanksFrom_append_space t [] rest

theorem splitBlanksFrom_of_no_blank {t acc : Text} (ht : ∀ c ∈ t, isBlank c = false) (hacc : acc ≠ []) :
    splitBlanksFrom acc t = [acc.reverse ++ t] := by
  induction t generalizing acc with
  | nil => simp [splitBlanksFrom, hacc]
  | cons c cs ih =>
    obtain ⟨hc, hcs⟩ := List.forall_mem_cons.1 ht
    simp [splitBlanksFrom, hc, ih hcs]

/-- Text without blanks is one field. -/
theorem splitBlanks_of_no_blank {t : Text} (hne : t ≠ []) (ht : ∀ c ∈ t, isBlank c = false) :
    splitBlanks t = [t] := by
  cases t with
  | nil => exact absurd rfl hne
  | cons c cs =>
    obtain ⟨hc, hcs⟩ := List.forall_mem_cons.1 ht
    simp [splitBlanks, splitBlanksFrom, hc, splitBlanksFrom_of_no_blank hcs]

/-! ### Decimal numbers -/

theorem isDecimal_of_mem_showNat {n : Nat} {c : Char} (h : c ∈ showNat n) : isDecimal c = true :=
  Nat.isDigit_of_mem_toDigits (by decide) (by decide) h

theorem isBlank_of_isDecimal {c : Char} (h : isDecimal c = true) : isBlank c = false := by
  have hne (d : Char) (hd : isDecimal d = false) : c ≠ d := fun hc => by simp [hc, hd] at h
  simp [isBlank, hne ' ' rfl, hne '\t' rfl, hne '\r' rfl, hne '\n' rfl, hne '\x0b' rfl, hne '\x0c' rfl]

theorem splitBlanks_showNat (n : Nat) : splitBlanks (showNat n) = [showNat n] :=
  splitBlanks_of_no_blank Nat.toDigits_ne_nil fun _ hc => isBlank_of_isDecimal (isDecimal_of_mem_showNat hc)

/-- Text that begins with no sign is read as digits. -/
theorem parseInteger_of_isDecimal {t : Text} (h : ∀ c ∈ t, isDecimal c = true) :
    parseInteger t = (parseDigits t).map Int.ofNat := by
  unfold parseInteger
  split
  · exact absurd (h '+' (by simp)) (by decide)
  · exact absurd (h '-' (by simp)) (by decide)
  · rfl

theorem parseDigits_showNat (n : Nat) : parseDigits (showNat n) = some n := by
  have hne : showNat n ≠ [] := Nat.toDigits_ne_nil
  have hall : (showNat n).all isDecimal = true := List.all_eq_true.2 fun _ => isDecimal_of_mem_showNat
  have hfold : Nat.ofDigitChars 10 (showNat n) 0 = n := Nat.ofDigitChars_ten_toDigits
  rw [Nat.ofDigitChars_eq_foldl] at hfold
  simpa [parseDigits, hne, hall, Nat.mul_comm] using hfold

/-- A number is read back from its decimal text (R218, R230). -/
theorem parseInteger_showNat (n : Nat) : parseInteger (showNat n) = some (n : Int) := by
  rw [parseInteger_of_isDecimal fun _ => isDecimal_of_mem_showNat, parseDigits_showNat]
  rfl

/-! ### Mnemonics -/

theorem splitBlanks_mnemonic : ∀ m ∈ tableMnemonics, splitBlanks m.toList = [m.toList] := by
  decide

/-- The mnemonic at place `opc` of the table names opcode `opc`, and nothing before it does (R84, R212). -/
theorem asmOpOf_tableMnemonics :
    ∀ (opc : Nat) (h : opc < tableMnemonics.length), asmOpOf tableMnemonics[opc].toList = some (.table opc) := by
  decide

/-! ### The packed word -/

/-- The word of opcode and immediate decodes to both and is named by the opcode's mnemonic (R80, R89). -/
theorem packedWord_fields {opc n : Nat} (h : opc < tableMnemonics.length) (hn : n ≤ 127) :
    (decode (BitVec.ofNat 13 (opc * 128 + n))).opcode.toNat = opc ∧
    (decode (BitVec.ofNat 13 (opc * 128 + n))).imm.toNat = n ∧
    commandName (BitVec.ofNat 13 (opc * 128 + n)) = tableMnemonics[opc] := by
  have hopc : opc < 40 := h
  have hfield : (opcodeField (BitVec.ofNat 13 (opc * 128 + n))).toNat = opc := by
    rw [toNat_opcodeField, BitVec.toNat_ofNat]
    omega
  refine ⟨by rw [opcode_decode, hfield], ?_, ?_⟩
  · rw [imm_decode, toNat_immField, BitVec.toNat_ofNat]
    omega
  · simp only [commandName_of_lt (hfield.symm ▸ h), hfield]

/-- An argument from 0 to 127 is packed below the opcode (R90). -/
theorem encodeCommand_table_some {opc n : Nat} (hopc : noArgumentOpcodes.contains opc = false) (hn : n ≤ 127) :
    encodeCommand (.table opc) (some (n : Int)) = .ok (BitVec.ofNat 13 (opc * 128 + n)) := by
  have htakes : AsmOp.takesArgument (.table opc) = true := congrArg (!·) hopc
  have hrange : addressInRange n = true := (addressInRange_iff n).2 (by omega)
  simp only [encodeCommand, htakes, hrange, if_true]
  rw [← BitVec.ofInt_natCast]
  rfl

/-- Without an argument the immediate is 0 (R91, D13). -/
theorem encodeCommand_table_none {opc : Nat} (hopc : noArgumentOpcodes.contains opc = true) :
    encodeCommand (.table opc) none = .ok (BitVec.ofNat 13 (opc * 128)) := by
  have htakes : AsmOp.takesArgument (.table opc) = false := congrArg (!·) hopc
  simp only [encodeCommand, htakes]

/-- Settles O53: the text splits into mnemonic and argument, each is read back, and the packed word keeps both. -/
theorem parsedCommandsDecodeToTheirMnemonic : Obligations.ParsedCommandsDecodeToTheirMnemonic := by
  intro opc h n hn
  have hmnemonic := splitBlanks_mnemonic tableMnemonics[opc] (List.getElem_mem h)
  have hop := asmOpOf_tableMnemonics opc h
  constructor
  · intro htakes
    refine ⟨_, ?_, packedWord_fields h hn⟩
    simp only [parseCommand, splitBlanks_append_space, hmnemonic, splitBlanks_showNat, List.singleton_append,
      parseFields, hop, parseInteger_showNat, encodeCommand_table_some htakes hn]
  · intro htakes
    obtain ⟨hopc, himm, hname⟩ := packedWord_fields h (Nat.zero_le 127)
    refine ⟨_, ?_, hopc, BitVec.eq_of_toNat_eq himm, hname⟩
    simp only [parseCommand, hmnemonic, parseFields, hop, encodeCommand_table_none htakes, Nat.add_zero]

end Sys2Proof.Machine
end

section
/-! SUPPORT. One cycle as a whole (spec/40_cycle.md sections 1 and 2): what a completed instruction does to PC, what a
faulting one leaves in AR and DR, and the step as fetch, instruction and breakpoint check. -/

namespace Sys2Proof.Machine

/-- Settles O40: what is left of either row is the operand fetch. -/
theorem dataWordsDoNothing : Obligations.DataWordsDoNothing := fun _ imm s =>
  ⟨congrArg Host.Outcome.next (s.operandFetch_eq imm), congrArg Host.Outcome.next (s.operandFetch_eq imm)⟩

/-- The instructions R106 lets write PC. -/
def WritesPc (i : Instr) : Prop :=
  ∃ a, i ∈ [.jmp a, .jms a, .jpl a, .jze a, .jnm a, .jnp a, .jnz a, .jsr a, .rtn a]

/-- One case per way an instruction completes: as one of the nine, by a commit, at a relative address, on input,
straight on. -/
theorem exec_pc {i : Instr} {s t : State} (h : exec i s = .next t) : t.pc = s.pc ∨ WritesPc i := by
  cases i
  case jmp a | jms a | jpl a | jze a | jnm a | jnp a | jnz a | jsr a | rtn a => exact .inr ⟨a, by simp⟩
  all_goals left
  case add a | sub a | inc a | dec a =>
    obtain ⟨-, rfl⟩ := commitAc_eq_next.1 h
    rfl
  case ldas x | ldab x =>
    obtain ⟨-, rfl⟩ := relativeLoad_eq_next.1 h
    rfl
  case stas x | stab x =>
    obtain ⟨-, rfl⟩ := relativeStore_eq_next.1 h
    rfl
  case outs x | outb x =>
    obtain ⟨-, rfl⟩ := relativeOut_eq_next.1 h
    rfl
  case adds x | addb x =>
    obtain ⟨-, -, rfl⟩ := relativeAdd_eq_next.1 h
    rfl
  case subs x | subb x =>
    obtain ⟨-, -, rfl⟩ := relativeSub_eq_next.1 h
    rfl
  case ins x | inb x =>
    obtain ⟨-, _, _, -, rfl⟩ := relativeIn_eq_next.1 h
    rfl
  case inm a => obtain ⟨-, rfl⟩ | ⟨_, _, -, rfl⟩ := execInm_eq_next.1 h <;> rfl
  all_goals
    obtain rfl := Host.Outcome.next.inj h
    rfl

/-- Settles O13, by what a completed instruction does to PC. -/
theorem onlyNineInstructionsWritePc : Obligations.OnlyNineInstructionsWritePc := fun _ _ _ h => exec_pc h

theorem State.checkBreakpoint_eq (s : State) :
    s.checkBreakpoint = if s.running = true ∧ AddrSet.has s.breakpoints s.pc = true
      then { s with running := false, lastEnd := .breakpoint } else s := by
  obtain ⟨hrun, hhit, h⟩ | ⟨hmiss, h⟩ := s.checkBreakpoint_cases
  · rw [h, if_pos ⟨hrun, hhit⟩]
  · rw [h, if_neg hmiss]

/-- Settles O7: the fetched state is the one written out, and the step's two answers are the instruction's. -/
theorem stepRunsTheDecodedInstruction : Obligations.StepRunsTheDecodedInstruction := by
  rintro s _ rfl
  exact ⟨fun u hu => step_eq_next.2 ⟨u, hu, u.checkBreakpoint_eq.symm⟩, fun _ hx => step_eq_fault.2 hx⟩

/-! ### The scratch registers at a fault (R179, R265) -/

/-- The state the fault leaves has these AR and DR. -/
def ScratchIs (f : Fault) (ar : Addr) (dr : Word) : Prop := (faultState f).ar = ar ∧ (faultState f).dr = dr

section
variable {b x : Addr} {e m : State} {f : Fault}

/-- The free value of `scratchAtFault` picks one of its two candidates (U2). -/
theorem raise_scratchAtFault_scratch {k : FaultKind} (h : raise k (scratchAtFault e m) = .fault f) :
    ScratchIs f e.ar e.dr ∨ (faultKind f = k ∧ ScratchIs f m.ar m.dr) := by
  obtain rfl := Host.Outcome.fault.inj h
  rw [ScratchIs, ScratchIs, faultKind_faultOf, faultState_faultOf]
  obtain hc | hc := scratchAtFault_cases e m <;> rw [hc]
  · exact .inr ⟨rfl, rfl, rfl⟩
  · exact .inl ⟨rfl, rfl⟩

theorem commitAcRelative_scratch {r : Int} (h : commitAcRelative r e m = .fault f) :
    ScratchIs f e.ar e.dr ∨ (faultKind f = .overflow ∧ ScratchIs f m.ar m.dr) := by
  obtain ⟨-, rfl⟩ := commitAcRelative_eq_fault.1 h
  exact raise_scratchAtFault_scratch rfl

/-- An address past the top is found before AR or DR is written; any other fault is the continuation's (R170). -/
theorem withRelative_scratch {k : State → Result} (h : withRelative b x e k = .fault f) :
    ScratchIs f e.ar e.dr ∨ k { e with ar := b + x } = .fault f := by
  obtain ⟨-, rfl⟩ | ⟨-, hk⟩ := withRelative_eq_fault.1 h
  · exact .inl ⟨rfl, rfl⟩
  · exact .inr hk

theorem relativeLoad_scratch (h : relativeLoad b x e = .fault f) : ScratchIs f e.ar e.dr :=
  (withRelative_scratch h).resolve_right nofun

theorem relativeStore_scratch (h : relativeStore b x e = .fault f) : ScratchIs f e.ar e.dr :=
  (withRelative_scratch h).resolve_right nofun

theorem relativeOut_scratch (h : relativeOut b x e = .fault f) : ScratchIs f e.ar e.dr :=
  (withRelative_scratch h).resolve_right nofun

theorem relativeAdd_scratch (h : relativeAdd b x e = .fault f) :
    ScratchIs f e.ar e.dr ∨ (faultKind f = .overflow ∧ ScratchIs f (b + x) (e.cell (b + x))) :=
  (withRelative_scratch h).elim .inl commitAcRelative_scratch

theorem relativeSub_scratch (h : relativeSub b x e = .fault f) :
    ScratchIs f e.ar e.dr ∨ (faultKind f = .overflow ∧ ScratchIs f (b + x) (e.cell (b + x))) :=
  (withRelative_scratch h).elim .inl commitAcRelative_scratch

theorem relativeIn_scratch (h : relativeIn b x e = .fault f) :
    ScratchIs f e.ar e.dr ∨ (faultKind f = .noInputValue ∧ ScratchIs f (b + x) e.dr) := by
  refine (withRelative_scratch h).elim .inl fun hk => ?_
  cases hin : e.input <;> simp only [hin] at hk
  case nil => exact raise_scratchAtFault_scratch hk
  case cons v rest => exact nomatch hk

end

/-- What AR and DR may be when `i`, run on `s`, faults with `f`: the step-3 values, or, in the forms R179 and R265 name,
the candidate the handler had moved them to. -/
def FaultScratch (i : Instr) (s : State) (f : Fault) : Prop :=
  ScratchIs f i.imm (s.cell i.imm) ∨
  (faultKind f = .overflow ∧ (i = .adds i.imm ∨ i = .subs i.imm) ∧
    ScratchIs f (s.sp + i.imm) (s.cell (s.sp + i.imm))) ∨
  (faultKind f = .overflow ∧ (i = .addb i.imm ∨ i = .subb i.imm) ∧
    ScratchIs f (s.bp + i.imm) (s.cell (s.bp + i.imm))) ∨
  (faultKind f = .noInputValue ∧ i = .ins i.imm ∧ ScratchIs f (s.sp + i.imm) (s.cell i.imm)) ∨
  (faultKind f = .noInputValue ∧ i = .inb i.imm ∧ ScratchIs f (s.bp + i.imm) (s.cell i.imm))

/-- One case per kind of instruction that can fault, and for the six with a second candidate one case each. -/
theorem exec_faultScratch {i : Instr} {s : State} {f : Fault} (h : exec i s = .fault f) : FaultScratch i s f := by
  cases i
  case add a | sub a | inc a | dec a =>
    obtain ⟨-, rfl⟩ := commitAc_eq_fault.1 h
    exact .inl ⟨rfl, rfl⟩
  case ldas x | ldab x => exact .inl (relativeLoad_scratch h)
  case stas x | stab x => exact .inl (relativeStore_scratch h)
  case outs x | outb x => exact .inl (relativeOut_scratch h)
  case adds x => exact (relativeAdd_scratch h).imp_right fun ⟨hk, hm⟩ => .inl ⟨hk, .inl rfl, hm⟩
  case subs x => exact (relativeSub_scratch h).imp_right fun ⟨hk, hm⟩ => .inl ⟨hk, .inr rfl, hm⟩
  case addb x => exact (relativeAdd_scratch h).imp_right fun ⟨hk, hm⟩ => .inr (.inl ⟨hk, .inl rfl, hm⟩)
  case subb x => exact (relativeSub_scratch h).imp_right fun ⟨hk, hm⟩ => .inr (.inl ⟨hk, .inr rfl, hm⟩)
  case ins x => exact (relativeIn_scratch h).imp_right fun ⟨hk, hm⟩ => .inr (.inr (.inl ⟨hk, rfl, hm⟩))
  case inb x => exact (relativeIn_scratch h).imp_right fun ⟨hk, hm⟩ => .inr (.inr (.inr ⟨hk, rfl, hm⟩))
  case inm a => exact absurd h execInm_ne_fault
  all_goals exact nomatch h

/-- Settles O8: the frame of a fault gives every field but AR and DR, which the instruction decides; the rest is the
fetch. -/
theorem faultingCycleIsPrecise : Obligations.FaultingCycleIsPrecise := by
  intro s f hstep
  have hexec := step_eq_fault.1 hstep
  have hscratch : FaultScratch (decode (s.cell s.pc)) s f := exec_faultScratch (s := s.fetch) hexec
  obtain ⟨_, _, _, hstate⟩ := exec_faultFrame hexec
  refine ⟨?_, ?_, ?_, ?_, ?_, ?_, ?_, ?_, ?_, ?_, ?_, hscratch⟩ <;> rw [hstate] <;> rfl

end Sys2Proof.Machine
end

section
/-! SUPPORT. The run loop and the ends of a run (spec/40_cycle.md R108 to R110). -/

namespace Sys2Proof.Machine

/-- Go on with `k` from the state answered, if one is: a fault ends it. -/
def continueWith (k : State → Result) : Result → Result
  | .next t => k t
  | .fault f => .fault f
  | .refused r => .refused r

theorem runLoop_of_stopped {s : State} (hs : s.running = false) (n : Nat) : runLoop n s = .next s := by
  cases n with
  | zero => rfl
  | succ n => simp [runLoop, hs]

theorem runLoop_succ_of_running {s : State} (hs : s.running = true) (n : Nat) :
    runLoop (n + 1) s = continueWith (runLoop n) (step s) := by
  simp only [runLoop, hs, if_true]
  cases step s <;> rfl

/-- A run of `n + m` cycles is one of `n`, continued by one of `m` (R109). -/
theorem runLoop_add (n m : Nat) (s : State) : runLoop (n + m) s = continueWith (runLoop m) (runLoop n s) := by
  induction n generalizing s with
  | zero => rw [Nat.zero_add]; rfl
  | succ n ih =>
    cases hs : s.running with
    | false => rw [runLoop_of_stopped hs, runLoop_of_stopped hs, continueWith, runLoop_of_stopped hs]
    | true =>
      rw [Nat.add_right_comm, runLoop_succ_of_running hs, runLoop_succ_of_running hs]
      cases step s with
      | next t => exact ih t
      | fault f => rfl
      | refused r => rfl

/-- Settles O47, by the run as one run continued by another. -/
theorem runsCompose : Obligations.RunsCompose := fun n m s =>
  ⟨fun _ h => by rw [runLoop_add, h]; rfl, fun _ h => by rw [runLoop_add, h]; rfl,
    fun hs => runLoop_of_stopped hs n⟩

/-! ### The four ends -/

/-- What a cycle from `s` does when it is the end of a run of the given kind (R110). -/
def EndsBy (s : State) : RunEnd → Prop
  | .haltedByEnd => ∃ a, decode (s.cell s.pc) = .endd a
  | .haltedByInm => (∃ a, decode (s.cell s.pc) = .inm a) ∧ s.input = []
  | .breakpoint => ∃ u, exec (decode (s.cell s.pc)) s.fetch = .next u ∧ u.running = true ∧
      AddrSet.has u.breakpoints u.pc = true
  | .faulted => ∃ f, step s = .fault f

/-- END, and INM without input, do nothing but halt after the operand fetch (R161, R162). -/
theorem exec_of_halts {i : Instr} {s : State} (h : Halts i s) : exec i s = .next (s.operandFetch i.imm).halt := by
  obtain ⟨a, rfl | ⟨rfl, hin⟩⟩ := h
  · rfl
  · exact execInm_eq_next.2 (.inl ⟨hin, rfl⟩)

/-- After a halt the flag is 0, so the breakpoint check changes nothing. -/
theorem step_of_halts {s : State} (h : Halts (decode (s.cell s.pc)) s) :
    step s = .next (s.fetch.operandFetch (decode (s.cell s.pc)).imm).halt :=
  step_eq_next.2 ⟨_, exec_of_halts (s := s.fetch) h, rfl⟩

theorem runEnd_step_of_halts {s : State} (h : Halts (decode (s.cell s.pc)) s) :
    runEnd (step s) = some (if opcodeField (s.cell s.pc) = 28 then .haltedByInm else .haltedByEnd) := by
  rw [step_of_halts h]
  rfl

theorem opcodeField_of_decode_eq {w : Word} {i : Instr} (h : decode w = i) : opcodeField w = i.opcode := by
  rw [← h, opcode_decode]

theorem runEnd_step_of_endsBy {s : State} {e : RunEnd} (h : EndsBy s e) : runEnd (step s) = some e := by
  cases e with
  | haltedByEnd =>
    obtain ⟨a, hi⟩ := h
    rw [runEnd_step_of_halts ⟨a, .inl hi⟩, opcodeField_of_decode_eq hi]
    rfl
  | haltedByInm =>
    obtain ⟨⟨a, hi⟩, hin⟩ := h
    rw [runEnd_step_of_halts ⟨a, .inr ⟨hi, hin⟩⟩, opcodeField_of_decode_eq hi]
    rfl
  | breakpoint =>
    obtain ⟨u, hexec, hhit⟩ := h
    rw [step_eq_next.2 ⟨u, hexec, rfl⟩, u.checkBreakpoint_eq, if_pos hhit]
    rfl
  | faulted =>
    obtain ⟨f, hf⟩ := h
    rw [hf, runEnd_fault]

theorem endsBy_of_halts {s : State} (h : Halts (decode (s.cell s.pc)) s) : ∃ e, EndsBy s e := by
  obtain ⟨a, hi | ⟨hi, hin⟩⟩ := h
  · exact ⟨.haltedByEnd, a, hi⟩
  · exact ⟨.haltedByInm, ⟨a, hi⟩, hin⟩

/-- When a completed cycle of a running machine leaves the flag 0, its instruction or its breakpoint check ended the
run. -/
theorem endsBy_of_stopped {s t : State} (hs : s.running = true) (hstep : step s = .next t) (ht : t.running = false) :
    ∃ e, EndsBy s e := by
  obtain ⟨u, hexec, rfl⟩ := step_eq_next.1 hstep
  obtain ⟨hrun, hhit, -⟩ | ⟨-, hcheck⟩ := u.checkBreakpoint_cases
  · exact ⟨.breakpoint, u, hexec, hrun, hhit⟩
  · obtain hkept | ⟨-, hhalts⟩ := (execFrame hexec).running
    · rw [hcheck] at ht
      exact absurd (ht.symm.trans (hkept.trans hs)) Bool.false_ne_true
    · exact endsBy_of_halts hhalts

/-- The four ends exclude each other, since each fixes `runEnd`; and there is no fifth. -/
theorem runEnd_step_iff {s : State} (hs : s.running = true) (e : RunEnd) :
    runEnd (step s) = some e ↔ EndsBy s e := by
  refine ⟨fun hend => ?_, runEnd_step_of_endsBy⟩
  obtain ⟨e', he'⟩ : ∃ e', EndsBy s e' := by
    cases hstep : step s with
    | next t =>
      refine endsBy_of_stopped hs hstep (Bool.eq_false_iff.2 fun ht => ?_)
      simp [hstep, runEnd_running ht] at hend
    | fault f => exact ⟨.faulted, f, hstep⟩
    | refused r => simp [hstep] at hend
  cases hend.symm.trans (runEnd_step_of_endsBy he')
  exact he'

theorem ended_step_iff {s t : State} (hs : s.running = true) (hstep : step s = .next t) :
    t.ended = true ↔ t.running = false := by
  refine ⟨fun h => (t.ended_iff.1 h).1, fun ht => ?_⟩
  obtain ⟨e, he⟩ := endsBy_of_stopped hs hstep ht
  rw [State.ended, ← hstep, runEnd_step_of_endsBy he]
  rfl

/-- Settles O58: each kind of end is what `EndsBy` says of it, and the host's start forgets the last end. -/
theorem runEndsInFourWays : Obligations.RunEndsInFourWays := fun _ =>
  ⟨fun hs => ⟨fun _ => ended_step_iff hs, runEnd_step_iff hs .haltedByEnd, runEnd_step_iff hs .haltedByInm,
    runEnd_step_iff hs .breakpoint, runEnd_step_iff hs .faulted⟩, _, _, rfl, rfl, rfl, rfl⟩

end Sys2Proof.Machine
end

section
/-! SUPPORT. LDA, STA, ADD, SUB (spec/41_load_store_arith.md R120 to R124): the word of an instruction as a number, the
store of one cell, and a checked commit by the range its result lies in. -/

namespace Sys2Proof.Machine

/-- Opcode above immediate, as a number (R80). -/
theorem toNat_encode (i : Instr) : (encode i).toNat = i.opcode.toNat * 128 + i.imm.toNat := by
  rw [encode, BitVec.toNat_append, ← Nat.shiftLeft_add_eq_or_of_lt i.imm.isLt, Nat.shiftLeft_eq]

theorem Memory.stores_write (m : Memory) (a : Addr) (v : Word) : Stores m (Memory.write m a.toNat v) a v :=
  fun b => Memory.read_write m a.toNat b v

theorem commitAc_of_fits13 {r : Int} (hr : Fits13 r) (s : State) :
    ∃ v : Word, commitAc r s = .next { s with ac := v } ∧ v.toInt = r :=
  ⟨Reg.set 13 r, commitAc_in ((willOverflow_13_false r).2 hr) s, toInt_set_13 hr⟩

theorem commitAc_of_not_fits13 {r : Int} (hr : ¬ Fits13 r) (s : State) :
    ∃ e, commitAc r s = .fault (.overflow { s with lastEnd := e }) :=
  have hover : Reg.willOverflow 13 r = true := Bool.eq_true_of_not_eq_false (mt (willOverflow_13_false r).1 hr)
  ⟨.faulted, commitAc_out hover s⟩

/-- Settles O17: both instructions are straight-line, and the store is one memory write. -/
theorem ldaAndStaMoveWholeCells : Obligations.LdaAndStaMoveWholeCells := fun a s =>
  ⟨(toNat_encode (.lda a)).trans (Nat.zero_add _), rfl, toNat_encode (.sta a),
    _, rfl, Memory.stores_write s.mem a s.ac⟩

/-- Settles O18: each is the operand fetch followed by the checked commit of its exact result. -/
theorem addAndSubCommitOrOverflow : Obligations.AddAndSubCommitOrOverflow := fun a s =>
  ⟨toNat_encode (.add a), (commitAc_of_fits13 · (s.operandFetch a)), (commitAc_of_not_fits13 · (s.operandFetch a)),
    toNat_encode (.sub a), (commitAc_of_fits13 · (s.operandFetch a)), (commitAc_of_not_fits13 · (s.operandFetch a))⟩

end Sys2Proof.Machine
end

section
/-! SUPPORT. The seven jumps (spec/42_jumps.md R130 to R137): the conditions on the signed accumulator, and a jump as
one state equation whichever its condition. -/

namespace Sys2Proof.Machine

/-- The sign bit is set exactly on the negative values (R29). -/
theorem leftmost_iff_toInt_neg {b : Nat} (r : BitVec b) : Reg.leftmost r = true ↔ r.toInt < 0 := by
  have hmsb : Reg.leftmost r = r.msb := (BitVec.msb_eq_getLsbD_last r).symm
  rw [hmsb, BitVec.msb_eq_toInt, decide_eq_true_eq]

/-- There is no negative zero (R133). -/
theorem eq_zero_iff_toInt_eq_zero {b : Nat} (r : BitVec b) : r = 0 ↔ r.toInt = 0 := by
  rw [← BitVec.toInt_inj]
  exact Eq.congr_right BitVec.toInt_zero

/-- A jump's condition on the signed value of AC: the last column of R137's table. Reducible, so that each condition is
found decidable. -/
abbrev Cond.HoldsSigned (v : Int) : Cond → Prop
  | .always => True
  | .minus => v < 0
  | .plus => 0 < v
  | .zero => v = 0
  | .notMinus => 0 ≤ v
  | .notPlus => v ≤ 0
  | .notZero => v ≠ 0

/-- The two columns of R137's table agree. -/
theorem condHolds_iff (c : Cond) (ac : Word) : condHolds c ac = true ↔ c.HoldsSigned ac.toInt := by
  cases c with
  | always => exact iff_of_true rfl trivial
  | minus => exact leftmost_iff_toInt_neg ac
  | plus | zero | notZero => exact decide_eq_true_iff
  | notMinus =>
    rw [condHolds, Bool.not_eq_true', ← Bool.not_eq_true, leftmost_iff_toInt_neg]
    exact not_lt
  | notPlus =>
    rw [condHolds, Bool.or_eq_true, decide_eq_true_eq, leftmost_iff_toInt_neg, eq_zero_iff_toInt_eq_zero]
    exact le_iff_lt_or_eq.symm

/-- A jump after its operand fetch writes PC alone, and only under its condition (R137). -/
theorem next_jumpIf_operandFetch (c : Cond) (a : Addr) (s : State) [Decidable (c.HoldsSigned s.ac.toInt)] :
    (.next ((s.operandFetch a).jumpIf c) : Result) =
      .next { s with ar := a, dr := s.cell a, pc := if c.HoldsSigned s.ac.toInt then a else s.pc } := by
  rw [State.jumpIf_eq, State.operandFetch_eq]
  simp only [condHolds_iff]
  rfl

/-- Settles O20: each jump is `jumpIf` of its own condition after the operand fetch. -/
theorem jumpsFollowTheirCondition : Obligations.JumpsFollowTheirCondition := fun a s =>
  ⟨⟨toNat_encode (.jmp a), next_jumpIf_operandFetch .always a s⟩,
    ⟨toNat_encode (.jms a), next_jumpIf_operandFetch .minus a s⟩,
    ⟨toNat_encode (.jpl a), next_jumpIf_operandFetch .plus a s⟩,
    ⟨toNat_encode (.jze a), next_jumpIf_operandFetch .zero a s⟩,
    ⟨toNat_encode (.jnm a), next_jumpIf_operandFetch .notMinus a s⟩,
    ⟨toNat_encode (.jnp a), next_jumpIf_operandFetch .notPlus a s⟩,
    ⟨toNat_encode (.jnz a), next_jumpIf_operandFetch .notZero a s⟩,
    leftmost_iff_toInt_neg s.ac, eq_zero_iff_toInt_eq_zero s.ac⟩

end Sys2Proof.Machine
end

section
/-! SUPPORT. Subroutines and the stack (spec/43_subroutine_stack.md R140 to R147): reading a stored cell back, a return
address through a word, membership in the return-address set, and the six instructions by these. -/

namespace Sys2Proof.Machine

/-! ### Round trips -/

theorem Stores.read_same {m m' : Memory} {a : Addr} {v : Word} (h : Stores m m' a v) : Memory.read m' a.toNat = v :=
  (h a.toNat).trans (if_pos rfl)

/-- An address comes back whole from a word (R30). -/
theorem setWidth_setWidth_addr (a : Addr) : (a.setWidth 13).setWidth 7 = a :=
  (BitVec.setWidth_setWidth_of_le a (by decide)).trans (BitVec.setWidth_eq a)

/-! ### The return-address set -/

theorem AddrSet.has_add_iff (rs : AddrSet) (a b : Addr) :
    AddrSet.has (AddrSet.add rs a) b = true ↔ b = a ∨ AddrSet.has rs b = true := by
  rw [AddrSet.has_add, Bool.or_eq_true, decide_eq_true_eq, eq_comm]

theorem AddrSet.has_remove_iff (rs : AddrSet) (a b : Addr) :
    AddrSet.has (AddrSet.remove rs a) b = true ↔ b ≠ a ∧ AddrSet.has rs b = true := by
  rw [AddrSet.has_remove, Bool.and_eq_true, decide_eq_true_eq, ne_comm]

/-! ### JSR and RTN -/

/-- Settles O21: the store is one memory write, and the record one addition to the set. -/
theorem jsrPushesTheReturnAddress : Obligations.JsrPushesTheReturnAddress := fun a s =>
  ⟨toNat_encode (.jsr a), _, _, rfl, Memory.stores_write s.mem s.sp _, AddrSet.has_add_iff s.raSet s.sp⟩

/-- Settles O22: the pop reads one cell, and the record is taken out of the set. -/
theorem rtnPopsIntoPc : Obligations.RtnPopsIntoPc := fun _ s =>
  ⟨toNat_encode (.rtn 0), _, rfl, AddrSet.has_remove_iff s.raSet (s.sp + 1)⟩

/-- Settles O26: the call leaves SP one below the return cell, so the return pops that cell and drops its record. -/
theorem callThenReturnComesBack : Obligations.CallThenReturnComesBack := by
  intro a j s t b hcall hsp hcell
  obtain ⟨-, m, rs, hjsr, hstores, -⟩ := jsrPushesTheReturnAddress a s
  obtain rfl := Host.Outcome.next.inj (hjsr.symm.trans hcall)
  obtain ⟨-, rs', hrtn, hhas⟩ := rtnPopsIntoPc j b
  have hback : b.sp + 1 = s.sp := by
    rw [hsp]
    exact BitVec.sub_add_cancel s.sp 1
  have hreturn : b.cell s.sp = s.pc.setWidth 13 := hcell.trans hstores.read_same
  rw [hback] at hrtn hhas
  refine ⟨_, hrtn, ?_, rfl, ?_⟩
  · exact (congrArg (BitVec.setWidth 7) hreturn).trans (setWidth_setWidth_addr s.pc)
  · exact Bool.eq_false_of_not_eq_true fun h => ((hhas s.sp).1 h).1 rfl

/-! ### PSH, POP, PSHM, POPM -/

/-- Settles O23: both are straight-line, and the push is one memory write. -/
theorem pshAndPopMoveAc : Obligations.PshAndPopMoveAc := fun _ s =>
  ⟨toNat_encode (.psh 0), ⟨_, rfl, Memory.stores_write s.mem s.sp s.ac⟩, toNat_encode (.pop 0), rfl⟩

/-- Settles O25: the push leaves SP one below the pushed cell, so the pop reads that cell. -/
theorem pushThenPopRestores : Obligations.PushThenPopRestores := by
  intro i j s
  obtain ⟨-, ⟨m, hpsh, hstores⟩, -, -⟩ := pshAndPopMoveAc i s
  obtain ⟨-, -, -, hpop⟩ := pshAndPopMoveAc j { s with ar := s.sp, dr := s.ac, mem := m, sp := s.sp - 1 }
  have hback : s.sp - 1 + 1 = s.sp := BitVec.sub_add_cancel s.sp 1
  rw [hback] at hpop
  exact ⟨_, _, hpsh, hpop, rfl, hstores.read_same, rfl, rfl, hstores⟩

/-- Settles O24: each is straight-line with one memory write; the free value in POPM decides IR alone. -/
theorem pshmAndPopmMoveACell : Obligations.PshmAndPopmMoveACell := by
  intro a s
  refine ⟨⟨_, rfl, Memory.stores_write s.mem s.sp (s.cell a)⟩, ?_⟩
  have hstores := Memory.stores_write s.mem a (s.cell (s.sp + 1))
  obtain hir | hir := ((s.operandFetch a).popRead.setAr a).memWrite.popmScratchIr_cases a
  · exact ⟨_, _, _, congrArg Host.Outcome.next hir, hstores, .inl rfl⟩
  · exact ⟨_, _, _, congrArg Host.Outcome.next hir, hstores, .inr rfl⟩

end Sys2Proof.Machine
end

section
/-! SUPPORT. NOP, NEG, INC, DEC (spec/44_accumulator_ops.md R150 to R153): where the ends of AC's signed range lie among
the raw values, and with it when a negation or a step by one fits. -/

namespace Sys2Proof.Machine

/-! ### The ends of the signed range -/

/-- The signed reading of a 13-bit word, by the half its raw value lies in (R29). -/
theorem toInt_word_cases (w : Word) :
    (w.toNat ≤ 4095 ∧ w.toInt = w.toNat) ∨ (4096 ≤ w.toNat ∧ w.toNat ≤ 8191 ∧ w.toInt = w.toNat - 8192) := by
  have hsigned : w.toInt = if w.toNat < 4096 then (w.toNat : Int) else w.toNat - 8192 :=
    signedValue_eq_ite (by decide) w
  have hlt := w.isLt
  split at hsigned <;> omega

theorem toInt_eq_min_iff (w : Word) : w.toInt = -4096 ↔ w.toNat = 4096 := by
  have hhalf := toInt_word_cases w
  omega

theorem fits13_add_one_iff (w : Word) : Fits13 (w.toInt + 1) ↔ w.toNat ≠ 4095 := by
  have hhalf := toInt_word_cases w
  unfold Fits13
  omega

theorem fits13_sub_one_iff (w : Word) : Fits13 (w.toInt - 1) ↔ w.toNat ≠ 4096 := by
  have hhalf := toInt_word_cases w
  unfold Fits13
  omega

/-! ### NOP and NEG -/

theorem neg_eq_self_of_toInt_eq_min {w : Word} (hw : w.toInt = -4096) : Reg.neg w = w :=
  neg_eq_self_of_toNat_eq_two_pow (by decide) ((toInt_eq_min_iff w).1 hw)

theorem toInt_neg_of_ne_min {w : Word} (hw : w.toInt ≠ -4096) : (Reg.neg w).toInt = -w.toInt :=
  BitVec.toInt_neg_of_ne_intMin fun hmin => hw (hmin ▸ rfl)

theorem neg_neg_eq_self {b : Nat} (r : BitVec b) : Reg.neg (Reg.neg r) = r :=
  BitVec.neg_neg

/-- Settles O27: both are straight-line, and NEG's word operation undoes itself. -/
theorem nopAndNegNeverFault : Obligations.NopAndNegNeverFault := fun imm s =>
  ⟨toNat_encode (.nop 0), rfl, toNat_encode (.neg 0), Reg.neg s.ac, rfl, BitVec.toNat_neg s.ac,
    neg_eq_self_of_toInt_eq_min, toInt_neg_of_ne_min,
    congrArg (fun v => Host.Outcome.next ((s.operandFetch imm).setAc v)) (neg_neg_eq_self s.ac)⟩

/-! ### INC and DEC -/

/-- Settles O28: each is the operand fetch followed by the checked commit of AC one more or one less. -/
theorem incAndDecStepTheAccumulator : Obligations.IncAndDecStepTheAccumulator := fun imm s =>
  ⟨toNat_encode (.inc 0),
    fun h => commitAc_of_fits13 ((fits13_add_one_iff s.ac).2 h) (s.operandFetch imm),
    fun h => commitAc_of_not_fits13 (mt (fits13_add_one_iff s.ac).1 (not_not_intro h)) (s.operandFetch imm),
    toNat_encode (.dec 0),
    fun h => commitAc_of_fits13 ((fits13_sub_one_iff s.ac).2 h) (s.operandFetch imm),
    fun h => commitAc_of_not_fits13 (mt (fits13_sub_one_iff s.ac).1 (not_not_intro h)) (s.operandFetch imm)⟩

end Sys2Proof.Machine
end

section
/-! SUPPORT. OUT, INM, END (spec/45_io_halt.md R160 to R162): OUT is straight-line, INM with input is one store, and
END and INM without input are the two ways to halt. -/

namespace Sys2Proof.Machine

/-- Settles O29: OUT shows the signed reading of a word, and END halts. -/
theorem outShowsAndEndHalts : Obligations.OutShowsAndEndHalts := fun a s =>
  have hend : exec (.endd a) s = .next (s.operandFetch a).halt := exec_of_halts ⟨a, .inl rfl⟩
  ⟨toNat_encode (.out a), rfl, minSigned_le_signedValue (s.cell a), signedValue_le_maxSigned (s.cell a),
    toNat_encode (.endd 0), .halted, hend⟩

/-- Settles O30: the word stored is the input's residue, and without input INM halts. -/
theorem inmReadsOrHalts : Obligations.InmReadsOrHalts := fun a s =>
  ⟨fun v rest hin => ⟨_, Reg.set 13 v, execInm_eq_next.2 (.inr ⟨v, rest, hin, rfl⟩), Memory.stores_write s.mem a _,
      toNat_set 13 v⟩,
    fun hin => ⟨.halted, exec_of_halts ⟨a, .inr ⟨rfl, hin⟩⟩⟩⟩

end Sys2Proof.Machine
end

section
/-! SUPPORT. The SP- and BP-relative LDA, STA, ADD, SUB (spec/46_relative.md R170 to R178) at an address that exists:
said once for any base, then read at SP and at BP. -/

namespace Sys2Proof.Machine

/-! ### At an address `base + x` that exists -/

section
variable {b x : Addr}

/-- No wraparound in the address sum (R170). -/
theorem toNat_base_add_offset (hx : b.toNat + x.toNat ≤ 127) : (b + x).toNat = b.toNat + x.toNat :=
  BitVec.toNat_add_of_lt (Nat.lt_succ_of_le hx)

theorem relativeLoad_operandFetch (hx : b.toNat + x.toNat ≤ 127) (s : State) :
    relativeLoad b x (s.operandFetch x) = .next { s with ar := b + x, dr := s.cell (b + x), ac := s.cell (b + x) } :=
  relativeLoad_eq_next.2 ⟨hx, rfl⟩

theorem relativeStore_operandFetch (hx : b.toNat + x.toNat ≤ 127) (s : State) :
    ∃ m, relativeStore b x (s.operandFetch x) = .next { s with ar := b + x, dr := s.ac, mem := m } ∧
      Stores s.mem m (b + x) s.ac :=
  ⟨_, relativeStore_eq_next.2 ⟨hx, rfl⟩, Memory.stores_write s.mem (b + x) s.ac⟩

theorem relativeAdd_operandFetch {s : State} (hx : b.toNat + x.toNat ≤ 127)
    (hr : Fits13 (s.ac.toInt + (s.cell (b + x)).toInt)) :
    ∃ v : Word, relativeAdd b x (s.operandFetch x) = .next { s with ar := b + x, dr := s.cell (b + x), ac := v } ∧
      v.toInt = s.ac.toInt + (s.cell (b + x)).toInt :=
  ⟨_, relativeAdd_eq_next.2 ⟨hx, (willOverflow_13_false _).2 hr, rfl⟩, toInt_set_13 hr⟩

theorem relativeSub_operandFetch {s : State} (hx : b.toNat + x.toNat ≤ 127)
    (hr : Fits13 (s.ac.toInt - (s.cell (b + x)).toInt)) :
    ∃ v : Word, relativeSub b x (s.operandFetch x) = .next { s with ar := b + x, dr := s.cell (b + x), ac := v } ∧
      v.toInt = s.ac.toInt - (s.cell (b + x)).toInt :=
  ⟨_, relativeSub_eq_next.2 ⟨hx, (willOverflow_13_false _).2 hr, rfl⟩, toInt_set_13 hr⟩

end

/-! ### At SP and at BP -/

/-- Settles O31: LDAS is the relative load at SP, LDAB the one at BP, and neither address wraps. -/
theorem relativeLoadsReadBasePlusOffset : Obligations.RelativeLoadsReadBasePlusOffset := fun _ s =>
  ⟨fun hsp => ⟨relativeLoad_operandFetch hsp s, toNat_base_add_offset hsp⟩,
    fun hbp => ⟨relativeLoad_operandFetch hbp s, toNat_base_add_offset hbp⟩⟩

/-- Settles O32: STAS is the relative store at SP, STAB the one at BP; each is one memory write. -/
theorem relativeStoresWriteBasePlusOffset : Obligations.RelativeStoresWriteBasePlusOffset := fun _ s =>
  ⟨fun hsp => relativeStore_operandFetch hsp s, fun hbp => relativeStore_operandFetch hbp s⟩

/-- Settles O33: each is a relative sum or difference at SP or BP, and one that fits is committed as it is. -/
theorem relativeArithmeticCommits : Obligations.RelativeArithmeticCommits := fun _ _ =>
  ⟨relativeAdd_operandFetch, relativeSub_operandFetch, relativeAdd_operandFetch, relativeSub_operandFetch⟩

end Sys2Proof.Machine
end

section
/-! SUPPORT. SPBP, BPSP, PSHB, POPB (spec/47_pointer_stack.md R190 to R193): straight-line moves between SP, BP and the
stack; only PSHB stores, one cell. -/

namespace Sys2Proof.Machine

/-- Settles O38: each is one register copy after the operand fetch. -/
theorem pointerMovesCopy : Obligations.PointerMovesCopy := fun _ _ =>
  ⟨toNat_encode (.spbp 0), rfl, toNat_encode (.bpsp 0), rfl⟩

/-- Settles O39: both are straight-line, and the push is one memory write. -/
theorem pshbAndPopbMoveBp : Obligations.PshbAndPopbMoveBp := fun _ s =>
  ⟨⟨_, rfl, Memory.stores_write s.mem s.sp (s.bp.setWidth 13)⟩, rfl⟩

end Sys2Proof.Machine
end

section
/-! SUPPORT. Pass one of the assembler (spec/49_assembler_and_loader.md R212 to R217): the label table as a lookup, the
mnemonics' texts, and what every token keeps of the state built so far. -/

namespace Sys2Proof.Machine

/-! ### The label table -/

theorem LabelTable.find_eq_lookup (labels : LabelTable) (name : Text) :
    LabelTable.find labels name = List.lookup (foldText name) labels := by
  induction labels with
  | nil => rfl
  | cons e rest ih =>
    obtain ⟨k, b⟩ := e
    rw [LabelTable.find, List.lookup_cons, ih]
    by_cases hk : k = foldText name
    · rw [if_pos hk, beq_iff_eq.2 hk.symm]
    · rw [if_neg hk, beq_false_of_ne (Ne.symm hk)]

theorem LabelTable.mem_of_find_eq_some {labels : LabelTable} {name : Text} {b : Binding}
    (h : LabelTable.find labels name = some b) : (foldText name, b) ∈ labels := by
  rw [LabelTable.find_eq_lookup, List.lookup_eq_some_iff] at h
  obtain ⟨_, _, rfl, -⟩ := h
  simp

/-- A name that is not found can be bound without binding a key twice (R213, R215). -/
theorem LabelTable.nodup_keys_append {labels : LabelTable} {name : Text} (b : Binding)
    (hnew : ¬(LabelTable.find labels name).isSome = true) (hkeys : (labels.map Prod.fst).Nodup) :
    ((labels ++ [(foldText name, b)]).map Prod.fst).Nodup := by
  rw [Option.not_isSome_iff_eq_none, LabelTable.find_eq_lookup, List.lookup_eq_none_iff] at hnew
  have hfresh : foldText name ∉ labels.map Prod.fst := fun hmem => by
    obtain ⟨e, he, hkey⟩ := List.mem_map.1 hmem
    exact absurd (hnew e he) (by simp [hkey])
  rw [List.map_append, List.map_singleton, ← List.concat_eq_append]
  exact hkeys.concat hfresh

theorem bindPending_nodup_keys {index line : Nat} {pending : List Token} :
    ∀ {labels labels' : LabelTable}, bindPending index line pending labels = .ok labels' →
      (labels.map Prod.fst).Nodup → (labels'.map Prod.fst).Nodup := by
  induction pending with
  | nil =>
    intro labels labels' h hkeys
    obtain rfl := Except.ok.inj h
    exact hkeys
  | cons t ts ih =>
    intro labels labels' h hkeys
    rw [bindPending] at h
    split at h
    · exact nomatch h
    · next hnew => exact ih h (LabelTable.nodup_keys_append _ hnew hkeys)

/-! ### Mnemonics -/

theorem findName_eq_some {t : Text} : ∀ {n k : Nat} {names : List String}, findName t n names = some k →
    ∃ j, k = n + j ∧ names[j]?.map String.toList = some t
  | n, k, [], h => nomatch h
  | n, k, m :: ms, h => by
    rw [findName] at h
    split at h
    · next hm => exact ⟨0, (Option.some.inj h).symm, congrArg some hm⟩
    · obtain ⟨j, hk, hj⟩ := findName_eq_some h
      exact ⟨j + 1, by omega, hj⟩

/-- The text that names an operation is its mnemonic (R212). -/
theorem name_of_asmOpOf {t : Text} {o : AsmOp} (h : asmOpOf t = some o) : o.name = t := by
  unfold asmOpOf at h
  split at h
  · next hdef =>
    obtain rfl := Option.some.inj h
    exact hdef.symm
  · obtain ⟨k, hk, rfl⟩ := Option.map_eq_some_iff.1 h
    obtain ⟨j, rfl, hj⟩ := findName_eq_some hk
    obtain ⟨m, hm, rfl⟩ := Option.map_eq_some_iff.1 hj
    rw [AsmOp.name, Nat.zero_add, List.getD_eq_getElem?_getD, hm, Option.getD_some]

/-- The operation is one that a text names: its own mnemonic names it again. -/
def AsmOp.Named (o : AsmOp) : Prop := asmOpOf o.name = some o

theorem AsmOp.named_of_asmOpOf {t : Text} {o : AsmOp} (h : asmOpOf t = some o) : o.Named := by
  rw [AsmOp.Named, name_of_asmOpOf h, h]

/-- A token is taken as an operation only by its exact text (R212). -/
theorem asmOpOf_of_classify {t : Text} {o : AsmOp} (h : classify t = .op o) : asmOpOf t = some o := by
  unfold classify at h
  split at h
  · next o' ho =>
    obtain rfl := TokenClass.op.inj h
    exact ho
  · split at h
    · exact nomatch h
    · split at h <;> exact nomatch h

/-! ### What pass one keeps -/

/-- An instruction or a line has an argument exactly where its operation, which some text names, takes one (R215). -/
def ArgumentFits {α : Type} (op : AsmOp) (arg : Option α) : Prop := op.Named ∧ arg.isSome = op.takesArgument

/-- The invariant of pass one's state: no key is bound twice, the instructions are recorded in counter order, and each
has its argument. -/
structure AsmState.WellBuilt (st : AsmState) : Prop where
  keys : (st.labels.map Prod.fst).Nodup
  numbers : st.recorded.map AsmInstr.number = List.range st.counter
  args : ∀ i ∈ st.recorded, ArgumentFits i.op i.arg

/-- What pass one has seen when it waits for an argument: an operation that takes one. -/
def AsmMode.Sound : AsmMode → Prop
  | .classify => True
  | .argument op _ => op.Named ∧ op.takesArgument = true
  | .equalValue _ _ => True

theorem recordInstr_wellBuilt {op : AsmOp} {arg : Option Token} {line : Nat} {st st' : AsmState}
    (h : recordInstr op arg line st = .ok st') (harg : ArgumentFits op arg) (hst : st.WellBuilt) : st'.WellBuilt := by
  unfold recordInstr at h
  split at h
  · exact nomatch h
  · next labels hlabels =>
    obtain rfl := Except.ok.inj h
    exact {
      keys := bindPending_nodup_keys hlabels hst.keys
      numbers := by simp [hst.numbers, List.range_succ]
      args := List.forall_mem_append.2 ⟨hst.args, List.forall_mem_singleton.2 harg⟩ }

theorem bindEqual_wellBuilt {name v : Token} {line : Nat} {st st' : AsmState}
    (h : bindEqual name v line st = .ok st') (hst : st.WellBuilt) : st'.WellBuilt := by
  unfold bindEqual at h
  split at h
  · exact nomatch h
  · split at h
    · exact nomatch h
    · next hnew =>
      obtain rfl := Except.ok.inj h
      exact { hst with keys := LabelTable.nodup_keys_append _ hnew hst.keys }

/-- What pass one does after an operation that may fail: to classify the next token. -/
theorem map_classify_eq_ok {r : Except ToolError AsmState} {mode : AsmMode} {st : AsmState}
    (h : (r.map fun st' => (AsmMode.classify, st')) = .ok (mode, st)) : r = .ok st ∧ mode = .classify := by
  cases r with
  | error e => exact nomatch h
  | ok st' =>
    obtain ⟨rfl, rfl⟩ := Prod.mk.inj (Except.ok.inj h)
    exact ⟨rfl, rfl⟩

/-- One case per mode, and per class of a token that is to be classified. -/
theorem asmToken_wellBuilt {t : Token} {mode mode' : AsmMode} {st st' : AsmState}
    (h : asmToken t mode st = .ok (mode', st')) (hmode : mode.Sound) (hst : st.WellBuilt) :
    mode'.Sound ∧ st'.WellBuilt := by
  unfold asmToken at h
  split at h
  · exact nomatch h
  cases mode with
  | argument op line =>
    obtain ⟨hrec, rfl⟩ := map_classify_eq_ok h
    exact ⟨trivial, recordInstr_wellBuilt hrec ⟨hmode.1, hmode.2.symm⟩ hst⟩
  | equalValue name line =>
    obtain ⟨hbind, rfl⟩ := map_classify_eq_ok h
    exact ⟨trivial, bindEqual_wellBuilt hbind hst⟩
  | classify =>
    cases hclass : classify t.text <;> simp only [hclass] at h
    case wrongCase => exact nomatch h
    case label =>
      obtain ⟨rfl, rfl⟩ := Prod.mk.inj (Except.ok.inj h)
      exact ⟨trivial, { hst with }⟩
    case equal =>
      split at h
      · exact nomatch h
      · obtain ⟨rfl, rfl⟩ := Prod.mk.inj (Except.ok.inj h)
        exact ⟨trivial, hst⟩
    case op o =>
      have hnamed := AsmOp.named_of_asmOpOf (asmOpOf_of_classify hclass)
      split at h
      · next htakes =>
        obtain ⟨rfl, rfl⟩ := Prod.mk.inj (Except.ok.inj h)
        exact ⟨⟨hnamed, htakes⟩, hst⟩
      · next htakes =>
        obtain ⟨hrec, rfl⟩ := map_classify_eq_ok h
        exact ⟨trivial, recordInstr_wellBuilt hrec ⟨hnamed, by simpa using htakes⟩ hst⟩

theorem passOne_wellBuilt {ts : List Token} : ∀ {mode : AsmMode} {st st' : AsmState},
    passOne ts mode st = .ok st' → mode.Sound → st.WellBuilt → st'.WellBuilt := by
  induction ts with
  | nil =>
    intro mode st st' h _ hst
    cases mode with
    | classify =>
      obtain rfl := Except.ok.inj h
      exact hst
    | argument op line => exact nomatch h
    | equalValue name line => exact nomatch h
  | cons t ts ih =>
    intro mode st st' h hmode hst
    rw [passOne] at h
    split at h
    · exact nomatch h
    · next htoken =>
      obtain ⟨hmode', hst'⟩ := asmToken_wellBuilt htoken hmode hst
      exact ih h hmode' hst'

/-- Pass one of a whole source starts with nothing built. -/
theorem wellBuilt_of_passOne {source : List Text} {st : AsmState}
    (h : passOne (tokenize source) .classify { pending := [], labels := [], recorded := [], counter := 0 } = .ok st) :
    st.WellBuilt :=
  passOne_wellBuilt h trivial ⟨List.nodup_nil, rfl, List.forall_mem_nil _⟩

/-- Settles O56, by the invariant of pass one. -/
theorem labelsAreBoundOnce : Obligations.LabelsAreBoundOnce := fun _ _ h =>
  ⟨(wellBuilt_of_passOne h).keys, (wellBuilt_of_passOne h).numbers⟩

/-! ### Pass two -/

/-- Resolving keeps number and operation, and gives a value exactly for an argument (R219). -/
theorem resolveInstr_keeps {labels : LabelTable} {i : AsmInstr} {l : AsmLine} (h : resolveInstr labels i = .ok l) :
    l.number = i.number ∧ (ArgumentFits i.op i.arg → ArgumentFits l.op l.arg) := by
  unfold resolveInstr at h
  split at h
  · next hnone =>
    obtain rfl := Except.ok.inj h
    exact ⟨rfl, hnone ▸ id⟩
  · next t hsome =>
    have hfits (v : Int) : ArgumentFits i.op i.arg → ArgumentFits i.op (some v) := hsome ▸ id
    split at h
    · obtain rfl := Except.ok.inj h
      exact ⟨rfl, hfits _⟩
    · split at h
      · obtain rfl := Except.ok.inj h
        exact ⟨rfl, hfits _⟩
      · exact nomatch h

theorem resolveAll_keeps {labels : LabelTable} {is : List AsmInstr} : ∀ {ls : List AsmLine},
    resolveAll labels is = .ok ls → ls.map AsmLine.number = is.map AsmInstr.number ∧
      ((∀ i ∈ is, ArgumentFits i.op i.arg) → ∀ l ∈ ls, ArgumentFits l.op l.arg) := by
  induction is with
  | nil =>
    intro ls h
    obtain rfl := Except.ok.inj h
    exact ⟨rfl, fun _ => List.forall_mem_nil _⟩
  | cons i is ih =>
    intro ls h
    rw [resolveAll] at h
    split at h
    · exact nomatch h
    · next l hl =>
      split at h
      · exact nomatch h
      · next ls' hls =>
        obtain rfl := Except.ok.inj h
        obtain ⟨hnumber, hfits⟩ := resolveInstr_keeps hl
        obtain ⟨hnumbers, hall⟩ := ih hls
        refine ⟨by rw [List.map_cons, List.map_cons, hnumber, hnumbers], fun his => ?_⟩
        obtain ⟨hi, his'⟩ := List.forall_mem_cons.1 his
        exact List.forall_mem_cons.2 ⟨hfits hi, hall his'⟩

/-- What the assembler puts out: lines numbered from 0, each with its argument (R230). -/
structure IsListing (ls : List AsmLine) : Prop where
  numbers : ls.map AsmLine.number = List.range ls.length
  args : ∀ l ∈ ls, ArgumentFits l.op l.arg

theorem assembleLines_isListing {source : List Text} {ls : List AsmLine} (h : assembleLines source = .ok ls) :
    IsListing ls := by
  unfold assembleLines at h
  split at h
  · exact nomatch h
  · next st hpass =>
    have hst := wellBuilt_of_passOne hpass
    obtain ⟨hnumbers, hargs⟩ := resolveAll_keeps h
    have hcount : ls.map AsmLine.number = List.range st.counter := hnumbers.trans hst.numbers
    have hlength : ls.length = st.counter := by simpa using congrArg List.length hcount
    exact { numbers := hlength ▸ hcount, args := hargs hst.args }

/-- Settles O55: pass two keeps the numbers and the arguments that pass one recorded. -/
theorem assembledLinesAreNumberedFromZero : Obligations.AssembledLinesAreNumberedFromZero := fun _ _ h =>
  ⟨(assembleLines_isListing h).numbers, fun l hl => ((assembleLines_isListing h).args l hl).2⟩

end Sys2Proof.Machine
end

section
/-! SUPPORT. The assembler on its own output (spec/49_assembler_and_loader.md R230, R232): an assembled line is read as
a label that is its number, its mnemonic and its argument, so every label names the index it reads as. -/

namespace Sys2Proof.Machine

/-! ### Numbers as text -/

/-- A character of an integer's text (R218, R230). -/
def isNumeral (c : Char) : Bool := isDecimal c || c = '-'

theorem isNumeral_of_mem_showInteger {v : Int} {c : Char} (h : c ∈ showInteger v) : isNumeral c = true := by
  cases v with
  | ofNat n => exact Bool.or_eq_true_iff.2 (.inl (isDecimal_of_mem_showNat h))
  | negSucc n =>
    obtain rfl | hc := List.mem_cons.1 h
    · rfl
    · exact Bool.or_eq_true_iff.2 (.inl (isDecimal_of_mem_showNat hc))

theorem isBlank_of_isNumeral {c : Char} (h : isNumeral c = true) : isBlank c = false := by
  obtain hdigit | hminus := Bool.or_eq_true_iff.1 h
  · exact isBlank_of_isDecimal hdigit
  · obtain rfl := of_decide_eq_true hminus
    rfl

theorem showInteger_ne_nil (v : Int) : showInteger v ≠ [] := by
  cases v with
  | ofNat n => exact Nat.toDigits_ne_nil
  | negSucc n => exact List.cons_ne_nil _ _

/-- An integer is read back from its decimal text (R218, R230). -/
theorem parseInteger_showInteger (v : Int) : parseInteger (showInteger v) = some v := by
  cases v with
  | ofNat n => exact parseInteger_showNat n
  | negSucc n => simp [showInteger, parseInteger, parseDigits_showNat, Int.negSucc_eq]

theorem showInteger_injective {v w : Int} (h : showInteger v = showInteger w) : v = w :=
  Option.some.inj ((parseInteger_showInteger v).symm.trans (h ▸ parseInteger_showInteger w))

/-- A numeral comes before the letters that folding changes. -/
theorem foldChar_of_isNumeral {c : Char} (h : isNumeral c = true) : foldChar c = c := by
  have hle : c.toNat ≤ 57 := by
    obtain hdigit | hminus := Bool.or_eq_true_iff.1 h
    · exact of_decide_eq_true (Bool.and_eq_true_iff.1 hdigit).2
    · obtain rfl := of_decide_eq_true hminus
      decide
  have hlow : ¬'a'.toNat ≤ c.toNat := fun ha => absurd (ha.trans hle) (by decide)
  simp only [foldChar, decide_eq_false hlow, Bool.false_and, Bool.false_eq_true, if_false]

/-- Folding the case of a name leaves an integer's text alone (R213). -/
theorem foldText_showInteger (v : Int) : foldText (showInteger v) = showInteger v :=
  (List.map_congr_left fun _ hc => foldChar_of_isNumeral (isNumeral_of_mem_showInteger hc)).trans (List.map_id _)

/-- A mnemonic is one of the table's, or `DEF`. -/
theorem name_mem (o : AsmOp) : ∃ m ∈ "DEF" :: tableMnemonics, m.toList = o.name := by
  cases o with
  | data => exact ⟨"DEF", List.mem_cons_self, rfl⟩
  | table opc =>
    refine ⟨tableMnemonics.getD opc "DEF", ?_, rfl⟩
    rw [List.getD_eq_getElem?_getD]
    cases hopc : tableMnemonics[opc]? with
    | none => exact List.mem_cons_self
    | some m => exact List.mem_cons_of_mem _ (List.mem_of_getElem? hopc)

theorem parseInteger_name (o : AsmOp) : parseInteger o.name = none := by
  have hall : ∀ m ∈ "DEF" :: tableMnemonics, parseInteger m.toList = none := by decide
  obtain ⟨m, hm, hname⟩ := name_mem o
  exact hname ▸ hall m hm

/-- No mnemonic and no directive reads as an integer, so an integer's text is a label (R212). -/
theorem classify_showInteger (v : Int) : classify (showInteger v) = .label := by
  have hint {t : Text} (ht : parseInteger t = none) : showInteger v ≠ t := fun h => by
    rw [← h, parseInteger_showInteger] at ht
    exact nomatch ht
  have hop : asmOpOf (showInteger v) = none := by
    refine Option.eq_none_iff_forall_not_mem.2 fun o ho => ?_
    exact hint (parseInteger_name o) (name_of_asmOpOf ho).symm
  have hequal : showInteger v ≠ "EQUAL".toList := hint (by decide)
  simp only [classify, hop, foldText_showInteger, hequal, decide_false, Option.isSome_none, Bool.or_self,
    Bool.false_eq_true, if_false]

/-! ### Fields of a line -/

/-- Text the tokenizer takes as one token, whole (R211). -/
structure IsField (t : Text) : Prop where
  piece : splitBlanks t = [t]
  comment : ';' ∉ t
  colon : ':' ∉ t

theorem isField_showInteger (v : Int) : IsField (showInteger v) where
  piece := splitBlanks_of_no_blank (showInteger_ne_nil v) fun _ hc =>
    isBlank_of_isNumeral (isNumeral_of_mem_showInteger hc)
  comment hc := absurd (isNumeral_of_mem_showInteger hc) (by decide)
  colon hc := absurd (isNumeral_of_mem_showInteger hc) (by decide)

theorem isField_name (o : AsmOp) : IsField o.name := by
  have hall : ∀ m ∈ "DEF" :: tableMnemonics,
      splitBlanks m.toList = [m.toList] ∧ ';' ∉ m.toList ∧ ':' ∉ m.toList := by decide
  obtain ⟨m, hm, hname⟩ := name_mem o
  obtain ⟨hpiece, hcomment, hcolon⟩ := hall m hm
  exact hname ▸ ⟨hpiece, hcomment, hcolon⟩

theorem dropComment_append {t : Text} (ht : ';' ∉ t) (rest : Text) :
    dropComment (t ++ rest) = t ++ dropComment rest := by
  induction t with
  | nil => rfl
  | cons c cs ih =>
    rw [List.mem_cons, not_or] at ht
    rw [List.cons_append, dropComment, if_neg (Ne.symm ht.1), ih ht.2, List.cons_append]

/-- The pieces of a line that begins with a field and a space. -/
theorem pieces_field_space {t : Text} (ht : IsField t) (rest : Text) :
    splitBlanks (dropComment (t ++ ' ' :: rest)) = t :: splitBlanks (dropComment rest) := by
  have hspace : dropComment (' ' :: rest) = ' ' :: dropComment rest := rfl
  rw [dropComment_append ht.comment, hspace, splitBlanks_append_space, ht.piece, List.singleton_append]

theorem pieces_field {t : Text} (ht : IsField t) : splitBlanks (dropComment t) = [t] := by
  have hdrop : dropComment t = t := by simpa [dropComment] using dropComment_append ht.comment []
  rw [hdrop, ht.piece]

/-- The fields of an assembled line (R230). -/
def AsmLine.fields (l : AsmLine) : List Text := showNat l.number :: l.op.name :: (l.arg.map showInteger).toList

theorem pieces_show (l : AsmLine) : splitBlanks (dropComment l.show) = l.fields := by
  obtain ⟨n, op, arg⟩ := l
  have hnumber : IsField (showNat n) := isField_showInteger n
  cases arg with
  | none => simp [AsmLine.show, AsmLine.fields, pieces_field_space hnumber, pieces_field (isField_name op)]
  | some v =>
    simp [AsmLine.show, AsmLine.fields, pieces_field_space hnumber, pieces_field_space (isField_name op),
      pieces_field (isField_showInteger v)]

theorem isField_of_mem_fields (l : AsmLine) : ∀ t ∈ l.fields, IsField t := by
  obtain ⟨n, op, arg⟩ := l
  have hargs : ∀ t ∈ (arg.map showInteger).toList, IsField t := by
    cases arg with
    | none => exact List.forall_mem_nil _
    | some v => exact List.forall_mem_singleton.2 (isField_showInteger v)
  exact List.forall_mem_cons.2 ⟨isField_showInteger n, List.forall_mem_cons.2 ⟨isField_name op, hargs⟩⟩

/-- The token a field becomes on line `k`. -/
def fieldToken (k : Nat) (t : Text) : Token := { text := t, line := k, malformed := false }

@[simp] theorem fieldToken_text (k : Nat) (t : Text) : (fieldToken k t).text = t := rfl

@[simp] theorem fieldToken_line (k : Nat) (t : Text) : (fieldToken k t).line = k := rfl

@[simp] theorem fieldToken_malformed (k : Nat) (t : Text) : (fieldToken k t).malformed = false := rfl

theorem tokenOfPiece_of_isField {t : Text} (ht : IsField t) (k : Nat) : tokenOfPiece k t = fieldToken k t :=
  if_neg fun hlast => ht.colon (List.mem_of_getLast? hlast)

theorem tokenizeFrom_show_cons (k : Nat) (l : AsmLine) (ls : List AsmLine) :
    tokenizeFrom k ((l :: ls).map AsmLine.show) =
      l.fields.map (fieldToken k) ++ tokenizeFrom (k + 1) (ls.map AsmLine.show) := by
  rw [List.map_cons, tokenizeFrom, pieces_show]
  congr 1
  exact List.map_congr_left fun t ht => tokenOfPiece_of_isField (isField_of_mem_fields l t ht) k

/-! ### Pass one on assembled lines -/

/-- The labels bound after `n` assembled lines: each index's text, to that index. -/
def listingLabels (n : Nat) : LabelTable := (List.range n).map fun j => (showNat j, .index j)

/-- The state of pass one after `n` assembled lines, which recorded `is`. -/
def listingState (n : Nat) (is : List AsmInstr) : AsmState :=
  { pending := [], labels := listingLabels n, recorded := is, counter := n }

/-- The same, once the number that begins line `k` is read: a pending label. -/
def numberedState (k n : Nat) (is : List AsmInstr) : AsmState :=
  { listingState n is with pending := [fieldToken k (showNat n)] }

/-- The instruction pass one records for the assembled line `l`, read as line `k`. -/
def AsmLine.reread (k : Nat) (l : AsmLine) : AsmInstr :=
  { number := l.number, op := l.op, arg := l.arg.map fun v => fieldToken k (showInteger v), line := k }

/-- Every name among the listing's labels is bound to the integer it reads as. -/
theorem eq_of_find_listingLabels {n : Nat} {v : Int} {b : Binding}
    (h : LabelTable.find (listingLabels n) (showInteger v) = some b) : ∃ j < n, v = j ∧ b = .index j := by
  have hmem := LabelTable.mem_of_find_eq_some h
  rw [foldText_showInteger] at hmem
  obtain ⟨j, hj, he⟩ := List.mem_map.1 hmem
  obtain ⟨hkey, hbinding⟩ := Prod.mk.inj he
  exact ⟨j, List.mem_range.1 hj, (showInteger_injective (v := j) hkey).symm, hbinding.symm⟩

theorem find_listingLabels_self (n : Nat) : LabelTable.find (listingLabels n) (showNat n) = none := by
  refine Option.eq_none_iff_forall_not_mem.2 fun b hb => ?_
  obtain ⟨j, hlt, hj, -⟩ := eq_of_find_listingLabels (v := n) hb
  omega

theorem listingLabels_succ (n : Nat) : listingLabels (n + 1) = listingLabels n ++ [(showNat n, .index n)] := by
  rw [listingLabels, List.range_succ, List.map_append, List.map_singleton]
  rfl

/-- The line's number, a pending label no line before it has, is bound to the index it names (R215). -/
theorem recordInstr_numberedState (k n : Nat) (is : List AsmInstr) (op : AsmOp) (arg : Option Token) :
    recordInstr op arg k (numberedState k n is) =
      .ok (listingState (n + 1) (is ++ [{ number := n, op := op, arg := arg, line := k }])) := by
  have hfold : foldText (showNat n) = showNat n := foldText_showInteger n
  simp [recordInstr, numberedState, listingState, bindPending, find_listingLabels_self, hfold, listingLabels_succ]

theorem classify_name {o : AsmOp} (h : o.Named) : classify o.name = .op o := by
  rw [AsmOp.Named] at h
  rw [classify, h]

section
variable (k n : Nat) (is : List AsmInstr)

theorem asmToken_number :
    asmToken (fieldToken k (showNat n)) .classify (listingState n is) = .ok (.classify, numberedState k n is) := by
  have hlabel : classify (showNat n) = .label := classify_showInteger n
  simp [asmToken, hlabel, listingState, numberedState]

theorem asmToken_name_alone {op : AsmOp} (hop : ArgumentFits op (none : Option Int)) :
    asmToken (fieldToken k op.name) .classify (numberedState k n is) =
      .ok (.classify, listingState (n + 1) (is ++ [AsmLine.reread k ⟨n, op, none⟩])) := by
  obtain ⟨hnamed, harg⟩ := hop
  have htakes : op.takesArgument = false := harg.symm
  simp [asmToken, classify_name hnamed, htakes, recordInstr_numberedState, Except.map, AsmLine.reread]

theorem asmToken_name_before_argument {op : AsmOp} {v : Int} (hop : ArgumentFits op (some v)) :
    asmToken (fieldToken k op.name) .classify (numberedState k n is) =
      .ok (.argument op k, numberedState k n is) := by
  obtain ⟨hnamed, harg⟩ := hop
  have htakes : op.takesArgument = true := harg.symm
  simp [asmToken, classify_name hnamed, htakes]

theorem asmToken_argument (op : AsmOp) (v : Int) :
    asmToken (fieldToken k (showInteger v)) (.argument op k) (numberedState k n is) =
      .ok (.classify, listingState (n + 1) (is ++ [AsmLine.reread k ⟨n, op, some v⟩])) := by
  simp [asmToken, recordInstr_numberedState, Except.map, AsmLine.reread]

end

theorem passOne_cons {t : Token} {ts : List Token} {mode mode' : AsmMode} {st st' : AsmState}
    (h : asmToken t mode st = .ok (mode', st')) : passOne (t :: ts) mode st = passOne ts mode' st' := by
  rw [passOne, h]

/-- Pass one of one assembled line: its number is bound to its index, and it is recorded. -/
theorem passOne_fields (k : Nat) {l : AsmLine} (hl : ArgumentFits l.op l.arg) (ts : List Token) (is : List AsmInstr) :
    passOne (l.fields.map (fieldToken k) ++ ts) .classify (listingState l.number is) =
      passOne ts .classify (listingState (l.number + 1) (is ++ [l.reread k])) := by
  obtain ⟨n, op, arg⟩ := l
  cases arg with
  | none => exact (passOne_cons (asmToken_number k n is)).trans (passOne_cons (asmToken_name_alone k n is hl))
  | some v =>
    calc passOne (fieldToken k (showNat n) :: fieldToken k op.name :: fieldToken k (showInteger v) :: ts) .classify
          (listingState n is)
      _ = passOne (fieldToken k op.name :: fieldToken k (showInteger v) :: ts) .classify (numberedState k n is) :=
          passOne_cons (asmToken_number k n is)
      _ = passOne (fieldToken k (showInteger v) :: ts) (.argument op k) (numberedState k n is) :=
          passOne_cons (asmToken_name_before_argument k n is hl)
      _ = passOne ts .classify (listingState (n + 1) (is ++ [AsmLine.reread k ⟨n, op, some v⟩])) :=
          passOne_cons (asmToken_argument k n is op v)

/-- The instructions pass one records for assembled lines, the first of them read as line `k`. -/
def rereadFrom : Nat → List AsmLine → List AsmInstr
  | _, [] => []
  | k, l :: ls => l.reread k :: rereadFrom (k + 1) ls

theorem passOne_listing {ls : List AsmLine} : ∀ {n k : Nat} {is : List AsmInstr},
    ls.map AsmLine.number = List.range' n ls.length → (∀ l ∈ ls, ArgumentFits l.op l.arg) →
      passOne (tokenizeFrom k (ls.map AsmLine.show)) .classify (listingState n is) =
        .ok (listingState (n + ls.length) (is ++ rereadFrom k ls)) := by
  induction ls with
  | nil =>
    intro n k is _ _
    simp [tokenizeFrom, passOne, rereadFrom]
  | cons l ls ih =>
    intro n k is hnumbers hargs
    rw [List.map_cons, List.length_cons, List.range'_succ] at hnumbers
    obtain ⟨rfl, hnumbers'⟩ := List.cons.inj hnumbers
    obtain ⟨hl, hls⟩ := List.forall_mem_cons.1 hargs
    rw [tokenizeFrom_show_cons, passOne_fields k hl, ih hnumbers' hls, rereadFrom, List.append_assoc,
      List.singleton_append, List.length_cons, Nat.add_right_comm, Nat.add_assoc]

/-! ### Pass two on assembled lines -/

/-- An argument that is a label of the listing is bound to itself, any other is read as the integer it shows. -/
theorem resolveInstr_reread (n k : Nat) (l : AsmLine) : resolveInstr (listingLabels n) (l.reread k) = .ok l := by
  obtain ⟨number, op, arg⟩ := l
  cases arg with
  | none => rfl
  | some v =>
    simp only [resolveInstr, AsmLine.reread, Option.map_some, fieldToken_text]
    cases hfind : LabelTable.find (listingLabels n) (showInteger v) with
    | none => simp [parseInteger_showInteger]
    | some b =>
      obtain ⟨j, -, rfl, rfl⟩ := eq_of_find_listingLabels hfind
      rfl

theorem resolveAll_rereadFrom (n : Nat) (ls : List AsmLine) : ∀ k,
    resolveAll (listingLabels n) (rereadFrom k ls) = .ok ls := by
  induction ls with
  | nil => exact fun _ => rfl
  | cons l ls ih =>
    intro k
    simp only [rereadFrom, resolveAll, resolveInstr_reread, ih]

/-- The assembler reads its own output back line for line. -/
theorem assembleLines_show {ls : List AsmLine} (h : IsListing ls) : assembleLines (ls.map AsmLine.show) = .ok ls := by
  have hpass := passOne_listing (n := 0) (k := 1) (is := []) (h.numbers.trans (List.range_eq_range' ..)) h.args
  have hstart : listingState 0 [] = { pending := [], labels := [], recorded := [], counter := 0 } := rfl
  rw [hstart] at hpass
  rw [assembleLines, tokenize, hpass]
  exact resolveAll_rereadFrom _ ls 1

theorem assemble_eq_ok {source out : List Text} (h : assemble source = .ok out) :
    ∃ ls, assembleLines source = .ok ls ∧ out = ls.map AsmLine.show := by
  unfold assemble at h
  cases hls : assembleLines source with
  | error e => rw [hls] at h; exact nomatch h
  | ok ls =>
    rw [hls] at h
    exact ⟨ls, rfl, (Except.ok.inj h).symm⟩

/-- Settles O57: the output is a listing, and the assembler reads a listing back as it is. -/
theorem assemblingAssembledTextIsIdentity : Obligations.AssemblingAssembledTextIsIdentity := by
  intro source out h
  obtain ⟨ls, hls, rfl⟩ := assemble_eq_ok h
  rw [assemble, assembleLines_show (assembleLines_isListing hls)]
  rfl

end Sys2Proof.Machine
end

section
/-! SUPPORT. The host's reset, its loads and its writes (spec/70_reset_and_hazards.md R290, R297,
spec/49_assembler_and_loader.md R240 to R245): what they leave, and that none leaves the canonical form. -/

namespace Sys2Proof.Machine

/-- Settles O42: a read of empty memory is the fill value, and the rest is the reset state's own fields. -/
theorem resetLeavesTheResetState : Obligations.ResetLeavesTheResetState := fun s sp bp =>
  ⟨s.hostReset sp bp, rfl, fun _ => rfl, rfl, rfl, rfl, rfl, rfl, rfl, rfl, rfl, fun _ => rfl, rfl, rfl, rfl, rfl⟩

/-- Settles O43: a reset keeps exactly the fields the next reset keeps. -/
theorem resetTwiceIsResetOnce : Obligations.ResetTwiceIsResetOnce := fun s sp bp => ⟨s.hostReset sp bp, rfl, rfl⟩

/-! ### Loads -/

/-- What a load does once every line is parsed: the words are written over the state it starts from (R244). -/
def State.withWords (s : State) (words : List (Nat × Word)) : State :=
  (s.setMem (writeWords words s.mem)).setLastEnd .notRun

theorem State.load_eq_ok {s t : State} {sp bp : Addr} {lines : List Text} {clear : Bool} :
    s.load sp bp lines clear = .ok t ↔ ∃ words, parseLoad 1 lines = .ok words ∧
      t = State.withWords (if clear then s.hostReset sp bp else s) words := by
  unfold State.load State.withWords
  cases parseLoad 1 lines <;> simp [eq_comm]

/-- The last line for a cell decides what it holds (R243, D15). -/
theorem read_writeWords_last {pre post : List (Nat × Word)} {a : Nat} (w : Word) (hpost : ∀ e ∈ post, e.1 ≠ a)
    (m : Memory) : Memory.read (writeWords (pre ++ (a, w) :: post) m) a = w := by
  rw [writeWords_append, writeWords, read_writeWords_other post _ hpost, Memory.read_write_same]

/-- Settles O54: the load without clearing is the writes alone, made in the order of the lines. -/
theorem patchLoadKeepsTheRest : Obligations.PatchLoadKeepsTheRest := by
  intro s t sp bp lines hload
  obtain ⟨words, hparse, rfl⟩ := State.load_eq_ok.1 hload
  refine ⟨words, hparse, fun e he => Nat.le_of_lt_succ (parseLoad_lt hparse e he), rfl, ?_, ?_⟩
  · exact fun b hb => read_writeWords_other words s.mem hb
  · rintro pre post a w rfl hpost
    exact read_writeWords_last w hpost s.mem

/-! ### The canonical form -/

theorem State.hostReset_inv {s : State} (sp bp : Addr) (hs : s.Inv) : (s.hostReset sp bp).Inv := by
  obtain ⟨-, -, hbps, hout⟩ := hs
  exact ⟨rfl, rfl, hbps, hout⟩

theorem State.setMem_inv {s : State} {m : Memory} (hm : Memory.wf m = true) (hs : s.Inv) : (s.setMem m).Inv :=
  ⟨hm, hs.2⟩

theorem State.setBreakpoints_inv {s : State} {b : AddrSet} (hb : AddrSet.wf b = true) (hs : s.Inv) :
    (s.setBreakpoints b).Inv := by
  obtain ⟨hmem, hra, -, hout⟩ := hs
  exact ⟨hmem, hra, hb, hout⟩

theorem State.withWords_inv {s : State} {words : List (Nat × Word)} (hwords : ∀ e ∈ words, e.1 < 128) (hs : s.Inv) :
    (s.withWords words).Inv :=
  ⟨wf_writeWords words s.mem hwords hs.1, hs.2⟩

theorem State.load_inv {s t : State} {sp bp : Addr} {lines : List Text} {clear : Bool} (hs : s.Inv)
    (h : s.load sp bp lines clear = .ok t) : t.Inv := by
  obtain ⟨words, hparse, rfl⟩ := State.load_eq_ok.1 h
  refine State.withWords_inv (parseLoad_lt hparse) ?_
  split
  · exact State.hostReset_inv sp bp hs
  · exact hs

theorem State.writeReg_inv {s : State} (r : RegName) (v : Int) (hs : s.Inv) : (s.writeReg r v).Inv := by
  cases r <;> exact hs

theorem State.writeCell_inv {s t : State} {a v : Int} (hs : s.Inv) (h : s.writeCell a v = .ok t) : t.Inv := by
  obtain ⟨hlow, hhigh, rfl⟩ := State.writeCell_eq h
  have ha : a.toNat < Config.memCells := (Int.toNat_lt hlow).2 hhigh
  exact State.setMem_inv (Memory.wf_write _ ha hs.1) hs

/-- Settles O46, one case per operation. -/
theorem hostOperationsKeepCanonicalForm : Obligations.HostOperationsKeepCanonicalForm := by
  intro op s t hs h
  have ⟨hmem, hra, hbps, _⟩ := hs
  cases op
  case load sp bp lines clear =>
    simp only [hostStep] at h
    cases hload : s.load sp bp lines clear <;> simp only [hload] at h
    case error e => exact nomatch h
    case ok u =>
      obtain rfl := Except.ok.inj h
      exact State.load_inv hs hload
  case writeCell a v => exact State.writeCell_inv hs h
  all_goals obtain rfl := Except.ok.inj h
  case reset sp bp => exact State.hostReset_inv sp bp hs
  case start | pause | supplyInput v => exact hs
  case setBreakpoint a => exact State.setBreakpoints_inv (AddrSet.wf_add a hbps) hs
  case clearBreakpoint a => exact State.setBreakpoints_inv (AddrSet.wf_remove a hbps) hs
  case writeReg r v => exact State.writeReg_inv r v hs
  case clearMemory => exact State.setMem_inv (Memory.wf_clear s.mem) hs
  case takeOutput => exact ⟨hmem, hra, hbps, List.forall_mem_nil _⟩

end Sys2Proof.Machine
end

section
/-! SUPPORT. INS, INB, OUTS, OUTB (spec/48_relative_io.md R200 to R203) at an address that exists, and what a completed
cycle does to the two ports (spec/60_exceptions.md R275). -/

namespace Sys2Proof.Machine

/-! ### At an address `base + x` that exists -/

section
variable {b x : Addr} {s : State}

theorem relativeOut_operandFetch (hx : b.toNat + x.toNat ≤ 127) :
    relativeOut b x (s.operandFetch x) = .next { s with
      ar := b + x, dr := s.cell (b + x), output := s.output ++ [(s.cell (b + x)).toInt] } :=
  relativeOut_eq_next.2 ⟨hx, rfl⟩

theorem relativeIn_operandFetch {v : Int} {rest : List Int} (hin : s.input = v :: rest)
    (hx : b.toNat + x.toNat ≤ 127) :
    ∃ m w, relativeIn b x (s.operandFetch x) = .next { s with ar := b + x, dr := w, mem := m, input := rest } ∧
      Stores s.mem m (b + x) w ∧ (w.toNat : Int) = v % 8192 :=
  ⟨_, Reg.set 13 v, relativeIn_eq_next.2 ⟨hx, v, rest, hin, rfl⟩, Memory.stores_write s.mem (b + x) _, toNat_set 13 v⟩

end

/-- Settles O36: OUTS is the relative output at SP, OUTB the one at BP. -/
theorem relativeOutputsShowBasePlusOffset : Obligations.RelativeOutputsShowBasePlusOffset := fun _ _ =>
  ⟨relativeOut_operandFetch, relativeOut_operandFetch⟩

/-- Settles O37: INS is the relative input at SP, INB the one at BP; each is one memory write. -/
theorem relativeInputsStoreTheNextValue : Obligations.RelativeInputsStoreTheNextValue := fun _ _ _ _ hin =>
  ⟨relativeIn_operandFetch hin, relativeIn_operandFetch hin⟩

/-! ### The ports -/

/-- The input of `t` is that of `s`, or what is left of it after its first value. -/
def TakesAtMostOne (s t : State) : Prop := t.input = s.input ∨ ∃ v, s.input = v :: t.input

/-- One case per way an instruction completes: the three inputs, by a jump, by a commit, at a relative address, straight
on. -/
theorem exec_takesAtMostOne {i : Instr} {s t : State} (h : exec i s = .next t) : TakesAtMostOne s t := by
  cases i
  case inm a =>
    obtain ⟨-, rfl⟩ | ⟨v, _, hin, rfl⟩ := execInm_eq_next.1 h
    · exact .inl rfl
    · exact .inr ⟨v, hin⟩
  case ins x | inb x =>
    obtain ⟨-, v, _, hin, rfl⟩ := relativeIn_eq_next.1 h
    exact .inr ⟨v, hin⟩
  all_goals left
  case jmp a | jms a | jpl a | jze a | jnm a | jnp a | jnz a =>
    obtain rfl := Host.Outcome.next.inj h
    rw [State.jumpIf_eq]
    rfl
  case add a | sub a | inc a | dec a =>
    obtain ⟨-, rfl⟩ := commitAc_eq_next.1 h
    rfl
  case ldas x | ldab x =>
    obtain ⟨-, rfl⟩ := relativeLoad_eq_next.1 h
    rfl
  case stas x | stab x =>
    obtain ⟨-, rfl⟩ := relativeStore_eq_next.1 h
    rfl
  case outs x | outb x =>
    obtain ⟨-, rfl⟩ := relativeOut_eq_next.1 h
    rfl
  case adds x | addb x =>
    obtain ⟨-, -, rfl⟩ := relativeAdd_eq_next.1 h
    rfl
  case subs x | subb x =>
    obtain ⟨-, -, rfl⟩ := relativeSub_eq_next.1 h
    rfl
  all_goals
    obtain rfl := Host.Outcome.next.inj h
    rfl

theorem State.checkBreakpoint_ports (s : State) :
    s.checkBreakpoint.input = s.input ∧ s.checkBreakpoint.output = s.output := by
  obtain ⟨-, -, h⟩ | ⟨-, h⟩ := s.checkBreakpoint_cases <;> rw [h] <;> exact ⟨rfl, rfl⟩

/-- Settles O12: fetch and breakpoint check leave both ports alone, and the instruction shows at most the signed reading
of a word. -/
theorem portsMoveInOrder : Obligations.PortsMoveInOrder := by
  intro s t hstep
  obtain ⟨u, hexec, rfl⟩ := step_eq_next.1 hstep
  obtain ⟨hinput, houtput⟩ := u.checkBreakpoint_ports
  rw [hinput, houtput]
  have htakes : TakesAtMostOne s u := exec_takesAtMostOne (s := s.fetch) hexec
  refine ⟨htakes, (execDataFrame hexec).output.imp_right ?_⟩
  rintro ⟨w, hw⟩
  exact ⟨Reg.signedValue w, hw, minSigned_le_signedValue w, signedValue_le_maxSigned w⟩

end Sys2Proof.Machine
end

section
/-! SUPPORT. Which instruction raises which fault, and exactly when (spec/60_exceptions.md section 1, R261 to R263): each
relative operation as an equivalence, then the one list of causes the three statements are read off. -/

namespace Sys2Proof.Machine

/-! ### The relative operations -/

section
variable {b x : Addr} {e : State} {f : Fault}

/-- `base + x` does not exist: the fault is taken before anything is written (R170). -/
def PastTop (b x : Addr) (e : State) (f : Fault) : Prop :=
  127 < b.toNat + x.toNat ∧ f = .invalidAddress { e with lastEnd := .faulted }

theorem withRelative_eq_fault_iff_pastTop {k : State → Result} : withRelative b x e k = .fault f ↔
    PastTop b x e f ∨ (b.toNat + x.toNat ≤ 127 ∧ k { e with ar := b + x } = .fault f) := by
  rw [withRelative_eq_fault, not_le]
  rfl

theorem relativeLoad_eq_fault : relativeLoad b x e = .fault f ↔ PastTop b x e f := by
  simp [relativeLoad, withRelative_eq_fault_iff_pastTop]

theorem relativeStore_eq_fault : relativeStore b x e = .fault f ↔ PastTop b x e f := by
  simp [relativeStore, withRelative_eq_fault_iff_pastTop]

theorem relativeOut_eq_fault : relativeOut b x e = .fault f ↔ PastTop b x e f := by
  simp [relativeOut, withRelative_eq_fault_iff_pastTop]

/-- A relative instruction's state once its operand is in DR. -/
def State.withOperand (e : State) (b x : Addr) : State := { e with ar := b + x, dr := e.cell (b + x) }

theorem relativeAdd_eq_fault : relativeAdd b x e = .fault f ↔ PastTop b x e f ∨
    (b.toNat + x.toNat ≤ 127 ∧ Reg.willOverflow 13 (e.ac.toInt + (e.cell (b + x)).toInt) = true ∧
      f = .overflow { scratchAtFault e (e.withOperand b x) with lastEnd := .faulted }) := by
  rw [relativeAdd, withRelative_eq_fault_iff_pastTop, commitAcRelative_eq_fault]
  rfl

theorem relativeSub_eq_fault : relativeSub b x e = .fault f ↔ PastTop b x e f ∨
    (b.toNat + x.toNat ≤ 127 ∧ Reg.willOverflow 13 (e.ac.toInt - (e.cell (b + x)).toInt) = true ∧
      f = .overflow { scratchAtFault e (e.withOperand b x) with lastEnd := .faulted }) := by
  rw [relativeSub, withRelative_eq_fault_iff_pastTop, commitAcRelative_eq_fault]
  rfl

theorem relativeIn_eq_fault : relativeIn b x e = .fault f ↔ PastTop b x e f ∨
    (b.toNat + x.toNat ≤ 127 ∧ e.input = [] ∧
      f = .noInputValue { scratchAtFault e { e with ar := b + x } with lastEnd := .faulted }) := by
  rw [relativeIn, withRelative_eq_fault_iff_pastTop]
  cases e.input with
  | nil => simp [raise_eq, faultOf, eq_comm]
  | cons v rest => simp

end

/-! ### The causes of a fault -/

/-- The six instructions relative to SP (R262). -/
def SpRelative (i : Instr) (x : Addr) : Prop := i ∈ [.ldas x, .stas x, .adds x, .subs x, .outs x, .ins x]

/-- The six instructions relative to BP (R262). -/
def BpRelative (i : Instr) (x : Addr) : Prop := i ∈ [.ldab x, .stab x, .addb x, .subb x, .outb x, .inb x]

/-- Why the instruction `i`, run on `s`, raises a fault (R261 to R263). -/
inductive FaultCause (i : Instr) (s : State) : Fault → Prop where
  | invalidAddress {x : Addr}
      (h : (SpRelative i x ∧ 127 < s.sp.toNat + x.toNat) ∨ (BpRelative i x ∧ 127 < s.bp.toNat + x.toNat)) :
      FaultCause i s (.invalidAddress { s with ar := x, dr := s.cell x, lastEnd := .faulted })
  | overflow {r : Int} {t : State} (hr : exactResult i s = some r) (hover : Reg.willOverflow 13 r = true) :
      FaultCause i s (.overflow t)
  | noInputValue {x : Addr} {t : State} (hin : s.input = [])
      (hx : (i = .ins x ∧ s.sp.toNat + x.toNat ≤ 127) ∨ (i = .inb x ∧ s.bp.toNat + x.toNat ≤ 127)) :
      FaultCause i s (.noInputValue t)

theorem FaultCause.of_pastTop {i : Instr} {s : State} {b x : Addr} {f : Fault}
    (hi : (SpRelative i x ∧ b = s.sp) ∨ (BpRelative i x ∧ b = s.bp)) (hf : PastTop b x (s.operandFetch x) f) :
    FaultCause i s f := by
  obtain ⟨hx, rfl⟩ := hf
  obtain ⟨hsp, rfl⟩ | ⟨hbp, rfl⟩ := hi
  · exact .invalidAddress (.inl ⟨hsp, hx⟩)
  · exact .invalidAddress (.inr ⟨hbp, hx⟩)

/-- One case per kind of operation that can fault. -/
theorem exec_faultCause {i : Instr} {s : State} {f : Fault} (h : exec i s = .fault f) : FaultCause i s f := by
  cases i
  case add a | sub a | inc a | dec a =>
    obtain ⟨hover, rfl⟩ := commitAc_eq_fault.1 h
    exact .overflow rfl hover
  case ldas x | ldab x => exact .of_pastTop (by simp [SpRelative, BpRelative]) (relativeLoad_eq_fault.1 h)
  case stas x | stab x => exact .of_pastTop (by simp [SpRelative, BpRelative]) (relativeStore_eq_fault.1 h)
  case outs x | outb x => exact .of_pastTop (by simp [SpRelative, BpRelative]) (relativeOut_eq_fault.1 h)
  case adds x | addb x =>
    obtain hpast | ⟨hx, hover, rfl⟩ := relativeAdd_eq_fault.1 h
    · exact .of_pastTop (by simp [SpRelative, BpRelative]) hpast
    · exact .overflow (if_pos hx) hover
  case subs x | subb x =>
    obtain hpast | ⟨hx, hover, rfl⟩ := relativeSub_eq_fault.1 h
    · exact .of_pastTop (by simp [SpRelative, BpRelative]) hpast
    · exact .overflow (if_pos hx) hover
  case ins x | inb x =>
    obtain hpast | ⟨hx, hin, rfl⟩ := relativeIn_eq_fault.1 h
    · exact .of_pastTop (by simp [SpRelative, BpRelative]) hpast
    · exact .noInputValue hin (x := x) (by simp [hx])
  case inm a => exact absurd h execInm_ne_fault
  all_goals exact nomatch h

/-! ### InvalidAddress -/

/-- All twelve check the address first, whatever they do then (R170, D11, D24). -/
theorem exec_of_pastTop {i : Instr} {s : State} {x : Addr}
    (h : (SpRelative i x ∧ 127 < s.sp.toNat + x.toNat) ∨ (BpRelative i x ∧ 127 < s.bp.toNat + x.toNat)) :
    exec i s = .fault (.invalidAddress { s with ar := x, dr := s.cell x, lastEnd := .faulted }) := by
  obtain ⟨hi, hx⟩ | ⟨hi, hx⟩ := h
  all_goals
    simp only [SpRelative, BpRelative, List.mem_cons, List.not_mem_nil, or_false] at hi
    obtain rfl | rfl | rfl | rfl | rfl | rfl := hi
    · exact relativeLoad_eq_fault.2 ⟨hx, rfl⟩
    · exact relativeStore_eq_fault.2 ⟨hx, rfl⟩
    · exact relativeAdd_eq_fault.2 (.inl ⟨hx, rfl⟩)
    · exact relativeSub_eq_fault.2 (.inl ⟨hx, rfl⟩)
    · exact relativeOut_eq_fault.2 ⟨hx, rfl⟩
    · exact relativeIn_eq_fault.2 (.inl ⟨hx, rfl⟩)

/-- Settles O34, by the causes of a fault and the address check. -/
theorem invalidAddressExactlyPastTheTop : Obligations.InvalidAddressExactlyPastTheTop := by
  intro i s t
  constructor
  · intro h
    cases exec_faultCause h with
    | invalidAddress hx => exact ⟨_, hx, rfl⟩
  · rintro ⟨x, hx, rfl⟩
    exact exec_of_pastTop hx

/-! ### NoInputValue -/

/-- Settles O35, by the causes of a fault and the relative input. -/
theorem noInputValueExactlyInInsAndInb : Obligations.NoInputValueExactlyInInsAndInb := by
  intro i s
  constructor
  · rintro ⟨t, h⟩
    cases exec_faultCause h with
    | noInputValue hin hx => exact ⟨hin, _, hx⟩
  · rintro ⟨hin, x, ⟨rfl, hx⟩ | ⟨rfl, hx⟩⟩
    · exact ⟨_, relativeIn_eq_fault.2 (.inr ⟨hx, hin, rfl⟩)⟩
    · exact ⟨_, relativeIn_eq_fault.2 (.inr ⟨hx, hin, rfl⟩)⟩

/-! ### Overflow -/

theorem relativeAdd_of_in {b x : Addr} (hx : b.toNat + x.toNat ≤ 127) (e : State) : relativeAdd b x e =
    commitAcRelative (e.ac.toInt + (e.cell (b + x)).toInt) e (e.withOperand b x) :=
  withRelative_in hx e _

theorem relativeSub_of_in {b x : Addr} (hx : b.toNat + x.toNat ≤ 127) (e : State) : relativeSub b x e =
    commitAcRelative (e.ac.toInt - (e.cell (b + x)).toInt) e (e.withOperand b x) :=
  withRelative_in hx e _

/-- A checked instruction whose operand's address exists ends in the commit of its exact result (R124). -/
theorem exec_of_exactResult {i : Instr} {s : State} {r : Int} (h : exactResult i s = some r) :
    (∃ m, exec i s = commitAc r m) ∨ ∃ e m, exec i s = commitAcRelative r e m := by
  cases i
  case add a | sub a | inc a | dec a =>
    obtain rfl := Option.some.inj h
    exact .inl ⟨_, rfl⟩
  case adds x | addb x =>
    obtain ⟨hx, hv⟩ := Option.ite_none_right_eq_some.1 h
    obtain rfl := Option.some.inj hv
    exact .inr ⟨_, _, relativeAdd_of_in hx (s.operandFetch x)⟩
  case subs x | subb x =>
    obtain ⟨hx, hv⟩ := Option.ite_none_right_eq_some.1 h
    obtain rfl := Option.some.inj hv
    exact .inr ⟨_, _, relativeSub_of_in hx (s.operandFetch x)⟩
  all_goals exact nomatch h

theorem exec_next_of_fits {i : Instr} {s : State} {r : Int} (h : exactResult i s = some r)
    (hfits : Reg.willOverflow 13 r = false) : ∃ t, exec i s = .next t ∧ t.ac = Reg.set 13 r := by
  obtain ⟨m, hexec⟩ | ⟨e, m, hexec⟩ := exec_of_exactResult h
  · exact ⟨_, hexec.trans (commitAc_in hfits m), rfl⟩
  · exact ⟨_, hexec.trans (commitAcRelative_in hfits e m), rfl⟩

theorem exec_overflow_iff {i : Instr} {s : State} : (∃ t, exec i s = .fault (.overflow t)) ↔
    ∃ r, exactResult i s = some r ∧ Reg.willOverflow 13 r = true := by
  constructor
  · rintro ⟨t, h⟩
    cases exec_faultCause h with
    | overflow hr hover => exact ⟨_, hr, hover⟩
  · rintro ⟨r, hr, hover⟩
    obtain ⟨m, hexec⟩ | ⟨e, m, hexec⟩ := exec_of_exactResult hr
    · exact ⟨_, hexec.trans (commitAc_out hover m)⟩
    · exact ⟨_, hexec.trans (commitAcRelative_out hover e m)⟩

theorem FaultFrame.ac {s t : State} (h : FaultFrame s t) : t.ac = s.ac := by
  obtain ⟨_, _, _, rfl⟩ := h
  rfl

/-- Settles O19, by the range the overflow check passes; the frame of a fault leaves AC. -/
theorem checkedArithmeticLaw : Obligations.CheckedArithmeticLaw := by
  intro i s
  refine ⟨fun r hr hmin hmax => ?_, fun t hfault => ?_, ?_⟩
  · obtain ⟨t, hexec, hac⟩ := exec_next_of_fits hr ((willOverflow_13_false r).2 ⟨hmin, hmax⟩)
    exact ⟨t, hexec, hac ▸ toInt_set_13 ⟨hmin, hmax⟩, hac⟩
  · exact (exec_faultFrame hfault).ac
  · simp only [exec_overflow_iff, willOverflow_13]

end Sys2Proof.Machine
end
